-- ==== Sys2Proof/Word.lean ====
section
/-! DEFINITION. The widths of the block's words and fields (R20 to R37, R60, R80 to R82). -/

namespace Sys2Proof

/-- A 12-bit word: a register of R20, R22, R23, R26 or a word of memory (R60). -/
abbrev Word := BitVec 12

/-- A field number `0 .. 7` (R31). -/
abbrev Field := BitVec 3

/-- A one-bit register or flag (R21, R35 to R37). -/
abbrev Bit := BitVec 1

/-- The seven bits of the save-field register (R34, R81). -/
abbrev SaveField := BitVec 7

/-- The 7-bit command selector `opsel[6:0]` (R87). -/
abbrev Selector := BitVec 7

end Sys2Proof
end

