-- ==== Sys2Proof/Syntax.lean ====
section
/-! DEFINITION. The commands of the command port (R89), their operand ports (R87), the agents that
issue them (R84), the content of a core image (R245), and the events of the one total order (R10). -/

namespace Sys2Proof

/-- The three kinds of agent that issue commands (R84). A dispatch handler acts as the core. -/
inductive Agent where
  | core
  | device
  | host
  deriving DecidableEq, Repr

/-- The extended-memory feature switch (R5). -/
inductive Ema where
  | off
  | on
  deriving DecidableEq, Repr

/-- The name of a device-behaviour parameter (R210): what the operand port `dev` carries. The
behaviour it names is in `Params.devices` or in the uninterpreted functions of `Config`. -/
abbrev DevId := Nat

/-- The memory-extension fields of an image, present when its `EMA` is on (R245). -/
structure MeuContent where
  ifr : Nat
  df : Nat
  ib : Nat
  sf : Nat
  uf : Nat
  ub : Nat
  ui : Nat
  deriving DecidableEq, Repr

/-- What a decoded image says (R245), before the checks of R247: numbers of any size. The memory
array is `words` words, those of `cells` at their addresses and 0 everywhere else. -/
structure ImageContent where
  ema : Ema
  words : Nat
  cells : List (Nat × Nat)
  ac : Nat
  l : Nat
  pc : Nat
  mq : Nat
  sr : Nat
  ma : Nat
  mb : Nat
  run : Nat
  meu : Option MeuContent
  ie : Nat
  idef : Nat
  irq : Nat
  deriving DecidableEq, Repr

/-- A core image: a sequence of bytes in `IMAGE_FORMAT`, whose two functions are the open parameter of
R246, `Config.imageFormat`. DESIGN CHOICE (log 9). -/
abbrev Image := List (BitVec 8)

/-- The commands, one constructor for each row of R89, with the operands of the row. The operands
are what the ports carry (log 24 for the integer ones); the ranges of R87 are checked by
`Instr.wellFormed` and by the meanings. -/
inductive Instr where
  -- Register-File read
  | rdAc
  | rdPc
  | rdMq
  | rdSr
  | rdMa
  | rdMb
  | rdL
  | rdRun
  | rdLac
  -- Register-File write
  | wrAc (v : Int)
  | wrPc (v : Int)
  | wrMq (v : Int)
  | wrSr (v : Int)
  | wrMa (v : Int)
  | wrMb (v : Int)
  | wrL (v : Int)
  | wrRun (v : Int)
  | wrLac (v : Int)
  -- MEU reads and MEU operations
  | rdIf
  | rdDf
  | rdIb
  | rdSf
  | rdUf
  | rdUb
  | rdUi
  | xaInstr (a : Int)
  | xaData (a : Int)
  | branchOrCall
  | intEntry
  | intReturn (f g : Int)
  -- MEU field writes
  | wrIf (f : Int)
  | wrDf (f : Int)
  | wrIb (f : Int)
  | wrSf (v : Int)
  | wrUf (b : Int)
  | wrUb (b : Int)
  | wrUi (b : Int)
  -- interrupt controller
  | intPost
  | intWithdraw
  | intDisable
  | intEnableDeferred
  | intCommit
  | intAcceptable
  | poll
  | rdIntState
  | rdIntCount
  -- memory
  | memRd (xa : Int)
  | memWr (xa v : Int)
  -- device registry
  | devRegister (u : Nat) (nm lbl : String) (dev : DevId)
  | devMount (u : Nat) (path : String)
  | devMountLabel (lbl path : String)
  | devDispatch (u : Nat) (c : Int)
  | devPowerUp (argv : List String)
  | devPowerDown
  | devInitAll
  -- host
  | sysConfigure (ema : Ema)
  | sysStart
  | sysReset
  | snapSave
  | snapLoad (img : Image)
  deriving DecidableEq, Repr

/-- The operand ports (R87), one for each operand name. A command looks only at the ports its row of
R89 names. R87 says "any integer" of `v` and "a natural number" of `u`, and of `a`, `f`, `g`, `b`, `s`,
`xa` and `c` only the range outside which the command is refused. DESIGN CHOICE (log 24): those seven
ports carry any integer too, as R8 has it for a write port, so that a negative operand can be
presented and is refused like any other outside its range. -/
structure Ports where
  v : Int
  a : Int
  f : Int
  g : Int
  b : Int
  s : Int
  xa : Int
  u : Nat
  c : Int
  nm : String
  lbl : String
  path : String
  argv : List String
  dev : DevId
  ema : Ema
  img : Image
  deriving DecidableEq, Repr

/-- One command as it stands on the command port: a selector and its operands (R87, R89). -/
structure Command where
  opsel : Selector
  ports : Ports
  deriving DecidableEq, Repr

/-- One event of the total order of R10 and R221: an agent issues a command, or the device registered
at a unit takes an autonomous step. -/
inductive Event where
  | command (agent : Agent) (cmd : Command)
  | deviceStep (unit : Nat)
  deriving DecidableEq, Repr

end Sys2Proof
end

