-- ==== Sys2Proof/Config.lean ====
section
/-! DEFINITION. What an implementation fixes: the parameters of R6, the tabulated device behaviours,
and the free values, which are constants without a body. The two free functions that read the
block's state (`Config.dispatchFn`) or belong to a device record stand in `Machine/Devices.lean`. -/

namespace Sys2Proof

/-- `MA_WIDTH`, one of 12 and 15 (R6, R25). -/
inductive MaWidth where
  | w12
  | w15
  deriving DecidableEq, Repr

/-- `ION_WHEN_ENABLED` (R6, R183). -/
inductive IonMode where
  | keep
  | defer
  | any
  deriving DecidableEq, Repr

/-- `VECTOR_MODE` (R6, R266). -/
inductive VectorMode where
  | pdp8Jms0
  | core
  deriving DecidableEq, Repr

/-- `POWERUP_VALUES` (R6, R300, R301). -/
inductive PowerUpValues where
  | zero
  | arbitrary
  deriving DecidableEq, Repr

/-- A device's own opaque internal state (R44), as a number that stands for it (log 8). -/
abbrev DState := Nat

/-- The direction given to a power handler (R210). -/
inductive PowerDir where
  | up
  | down
  deriving DecidableEq, Repr

/-- An outcome of a mount handler (R210, R212). -/
inductive MountOutcome where
  | mounted (d : DState)
  | openFailed
  deriving DecidableEq, Repr

/-- The two commands an autonomous device step may issue (R210, R221). -/
inductive StepCmd where
  | post
  | withdraw
  deriving DecidableEq, Repr

/-- One outcome of a tabulated mount handler. A guard that is `none` matches everything. -/
structure MountRow where
  dstate : Option DState
  path : Option String
  outcome : MountOutcome
  deriving DecidableEq, Repr

/-- One outcome of a tabulated dispatch handler (R210). -/
structure DispatchRow where
  dstate : Option DState
  code : Option Nat
  next : DState
  cmds : List Instr
  deriving DecidableEq, Repr

/-- One outcome of a tabulated power handler (R210). -/
structure PowerRow where
  dstate : Option DState
  dir : Option PowerDir
  next : DState
  deriving DecidableEq, Repr

/-- One outcome of a tabulated init handler (R210). -/
structure InitRow where
  dstate : Option DState
  next : DState
  deriving DecidableEq, Repr

/-- One outcome of a tabulated step handler (R210, R221). -/
structure StepRow where
  dstate : Option DState
  next : DState
  cmds : List StepCmd
  deriving DecidableEq, Repr

/-- A device behaviour written out as data: each relation of R210 is the set of its rows that match
the arguments. A relation no row of which matches has no outcome. -/
structure DeviceTable where
  init0 : DState
  mount : List MountRow
  dispatch : List DispatchRow
  power : List PowerRow
  init : List InitRow
  step : List StepRow
  deriving DecidableEq, Repr

/-- The implementation parameters of R6. They are plain data, an argument of every statement through
`State.params`; no step changes them. -/
structure Params where
  srWidth : Nat
  maWidth : MaWidth
  reqMax : Option Nat
  unitCount : Nat
  opcWidth : Nat
  ion : IonMode
  vector : VectorMode
  powerUp : PowerUpValues
  /-- the device behaviours that are given as tables; every other `DevId` names an uninterpreted
  behaviour of `Config` (log 7) -/
  devices : List (DevId × DeviceTable)
  deriving DecidableEq, Repr

/-- The defaults and recommended values of R6. -/
def Params.default : Params :=
  { srWidth := 12, maWidth := .w12, reqMax := none, unitCount := 64, opcWidth := 3, ion := .any,
    vector := .pdp8Jms0, powerUp := .zero, devices := [] }

/-- FREE VALUE. Which member of a finite set of outcomes the n-th draw picks (R9). -/
opaque Config.choice (n : Nat) : Nat

/-- FREE VALUE. What the n-th draw gives for `draw {Enabled, DeferredEnable}` (R183): true for
Enabled. -/
opaque Config.ionKeeps (n : Nat) : Bool

/-- FREE VALUE. The register values drawn at power-up under `Arbitrary` (R301), by register. -/
opaque Config.powerUpRegister (register : Nat) : Nat

/-- FREE VALUE. The memory word drawn for an address under `Arbitrary` (R240, R301): the n-th draw. -/
opaque Config.powerUpWord (n address : Nat) : Word

/-- FREE VALUE. The initial state of an uninterpreted device (R210). -/
opaque Config.devInit0 (dev : DevId) : DState

/-- FREE VALUE. The n-th draw from the mount relation of an uninterpreted device (R210); `none` if
the relation has no outcome there. -/
opaque Config.mountFn (dev : DevId) (d : DState) (path : String) (n : Nat) : Option MountOutcome

/-- FREE VALUE. The n-th draw from the power relation of an uninterpreted device (R210). -/
opaque Config.powerFn (dev : DevId) (d : DState) (dir : PowerDir) (argv : List String) (n : Nat) :
    Option DState

/-- FREE VALUE. The n-th draw from the init relation of an uninterpreted device (R210). -/
opaque Config.initFn (dev : DevId) (d : DState) (n : Nat) : Option DState

/-- FREE VALUE. The n-th draw from the step relation of an uninterpreted device (R210, R221). -/
opaque Config.stepFn (dev : DevId) (d : DState) (n : Nat) : Option (DState × List StepCmd)

end Sys2Proof
end

