-- ==== Sys2Proof/Machine/State.lean ====
section
/-! DEFINITION. The state of the block (10_state.md, 20_memory.md), the reasons a step can stop, and
the state right after power-up (R300). -/

namespace Sys2Proof.Machine

/-- The enable state of the interrupt controller, the three combinations of `IE` and `IDEF` (R39). -/
inductive Ist where
  | disabled
  | deferredEnable
  | enabled
  deriving DecidableEq, Repr

/-- The lifecycle phase (R47). -/
inductive Phase where
  | config
  | active
  | down
  deriving DecidableEq, Repr

/-- The non-fatal status codes (R86). -/
inductive ErrCode where
  | dupUnit
  | badUnit
  | unknownUnit
  | openFailed
  | unknownLabel
  | imageMalformed
  deriving DecidableEq, Repr

/-- The fatal status codes (R86). -/
inductive FatalCode where
  | reqUnderflow
  | dispatchUnregistered
  | reqOverflow
  deriving DecidableEq, Repr

/-- The value of an `Ok(value)` result (R86, R89). -/
inductive Value where
  | num (n : Nat)
  | taken
  | notTaken
  | image (img : Image)
  deriving DecidableEq, Repr

/-- What a command returns on the result port (R86). -/
inductive Result where
  | ok
  | okValue (v : Value)
  | err (code : ErrCode)
  | fatal (code : FatalCode)
  deriving DecidableEq, Repr

/-- A device record (R44). `dev` names the device's handlers (R210). -/
structure DeviceRecord where
  unit : Nat
  name : String
  label : String
  dev : DevId
  mounted : Option String
  dstate : DState
  deriving DecidableEq, Repr

/-- The memory array (R60) as its non-zero words, `(address, word)` pairs at strictly rising
addresses; an address that is not listed reads `unlistedWord` (log 5). -/
abbrev Memory := List (Nat × Word)

/-- What a word reads as that nothing has written: 0 (R300). -/
def unlistedWord : Word := 0

/-- The state of the block, with its command port and result port. -/
structure State where
  /-- the implementation parameters (R6); no step writes them (log 4) -/
  params : Params
  /-- the extended-memory switch (R46) -/
  ema : Ema
  /-- accumulator (R20) -/
  ac : Word
  /-- link (R21) -/
  l : Bit
  /-- program counter (R22) -/
  pc : Word
  /-- multiplier-quotient (R23) -/
  mq : Word
  /-- switch register, `SR_WIDTH` bits (R24) -/
  sr : Nat
  /-- memory address register, `MA_WIDTH` bits (R25) -/
  ma : Nat
  /-- memory buffer register (R26) -/
  mb : Word
  /-- run flag (R27) -/
  run : Bool
  /-- instruction-field register `IF` (R31); this field and the six after it are 0 with EMA off (R30,
  log 19) -/
  ifr : Field
  /-- data-field register (R32) -/
  df : Field
  /-- instruction-field buffer (R33) -/
  ib : Field
  /-- save-field register (R34) -/
  sf : SaveField
  /-- user-mode flag (R35) -/
  uf : Bit
  /-- user-mode buffer (R36) -/
  ub : Bit
  /-- user-interrupt flag (R37) -/
  ui : Bit
  /-- interrupt enable state, the bits `IE` and `IDEF` (R39) -/
  ist : Ist
  /-- request counter (R40) -/
  irq : Nat
  /-- memory array `M` (R49, R60) -/
  mem : Memory
  /-- device registry, in registration order (R43) -/
  reg : List DeviceRecord
  /-- lifecycle phase (R47) -/
  phase : Phase
  /-- whether `DEV_POWER_UP` has run (R51) -/
  pwr : Bool
  /-- the internal-consistency error, once one has occurred (R48) -/
  fatal : Option FatalCode
  /-- the result port: what the last command returned (R86) -/
  result : Option Result
  /-- the agent that issued the command being performed (R84) -/
  agent : Agent
  /-- the command port: the events still to come, in the total order (R10, R72, R221, log 1) -/
  inbox : List Event
  /-- the model's own: how many draws (R9) have been made (log 6) -/
  draws : Nat
  /-- the model's own: a dispatch handler has issued `INT_ENTRY` or `INT_DISABLE` (R317, log 17) -/
  flagged : Bool
  deriving DecidableEq, Repr

/-- Which device handler had no outcome. -/
inductive Handler where
  | mount
  | dispatch
  | power
  | init
  | step
  deriving DecidableEq, Repr

/-- Why the machine stops. -/
inductive Fault where
  /-- The block is stuck: the named handler of the device at `unit` has no outcome (R9, R216, R218).
  Raised by DEV_MOUNT, DEV_MOUNT_LABEL, DEV_DISPATCH, DEV_POWER_UP, DEV_POWER_DOWN, DEV_INIT_ALL,
  SYS_RESET and an autonomous device step. Safe: the spec says there is no step. -/
  | noOutcome (handler : Handler) (unit : Nat)
  deriving DecidableEq, Repr

/-- Why a command has no meaning (R85). -/
inductive Refusal where
  /-- The selector is reserved (R90). Raised by the step. Safe: the spec refuses the command. -/
  | reserved (opsel : Selector)
  /-- The agent may not issue the command, or not in this phase or run state (R84, R85). Raised by
  every meaning. Safe: the spec refuses the command. -/
  | permission
  /-- An operand is outside its range (R87). Raised by XA_INSTR, XA_DATA, INT_RETURN, the MEU field
  writes and DEV_DISPATCH. Safe: the spec refuses the command. -/
  | operand
  /-- A memory address is outside memory (R64, R65). Raised by MEM_RD and MEM_WR. Safe: the spec
  refuses the command. -/
  | addrRange
  /-- The instruction has no meaning in this model yet. Raised by no arm of exec. Safe. -/
  | notModelled (mnemonic : String)
  deriving DecidableEq, Repr

/-- The state right after power-up, with the parameters at their defaults (R300). The command port
holds no event and the result port no result: DESIGN CHOICE (log 13). -/
def State.reset : State :=
  { params := Params.default, ema := .off, ac := 0, l := 0, pc := 0, mq := 0, sr := 0, ma := 0,
    mb := 0, run := false, ifr := 0, df := 0, ib := 0, sf := 0, uf := 0, ub := 0, ui := 0,
    ist := .disabled, irq := 0, mem := [], reg := [], phase := .config, pwr := false,
    fatal := none, result := none, agent := .host, inbox := [], draws := 0, flagged := false }

end Sys2Proof.Machine
end

