-- ==== Sys2Proof/Machine/Flags.lean ====
section
/-! DEFINITION. The flag and status computations: the link-and-accumulator view (R80), the save-field
layout (R81), the two enable bits (R39, R83) and the acceptance predicate (R185). -/

namespace Sys2Proof.Machine

/-- The 13-bit view `LAC`: the link is bit 12, the accumulator bits 11:0 (R80). -/
def packLac (l : Bit) (ac : Word) : BitVec 13 := l ++ ac

/-- `LAC[12]` (R80). -/
def lacLink (t : BitVec 13) : Bit := t.extractLsb' 12 1

/-- `LAC[11:0]` (R80). -/
def lacWord (t : BitVec 13) : Word := t.extractLsb' 0 12

/-- The save-field layout: bit 6 the user flag, bits 5:3 the instruction field, bits 2:0 the data
field (R81). -/
def packSave (uf : Bit) (ifr df : Field) : SaveField := uf ++ ifr ++ df

/-- `SF[6]` (R81). -/
def saveUser (sf : SaveField) : Bit := sf.extractLsb' 6 1

/-- `SF[5:3]` (R81). -/
def saveInstrField (sf : SaveField) : Field := sf.extractLsb' 3 3

/-- `SF[2:0]` (R81). -/
def saveDataField (sf : SaveField) : Field := sf.extractLsb' 0 3

/-- The enable bit of a controller state (R39). -/
def Ist.ie : Ist → Bool
  | .enabled => true
  | .disabled | .deferredEnable => false

/-- The deferred-enable bit of a controller state (R39). -/
def Ist.idef : Ist → Bool
  | .deferredEnable => true
  | .disabled | .enabled => false

/-- The controller state that two enable bits encode; the combination `1, 1` is unreachable (R39). -/
def istOfBits (ie idef : Nat) : Option Ist :=
  match ie, idef with
  | 0, 0 => some .disabled
  | 0, 1 => some .deferredEnable
  | 1, 0 => some .enabled
  | _, _ => none

/-- The 2-bit value `IE << 1 | IDEF` (R83). -/
def istCode (i : Ist) : Nat := i.ie.toNat <<< 1 ||| i.idef.toNat

/-- An interrupt may be taken exactly when the controller is Enabled and a request is pending (R185). -/
def acceptable (s : State) : Bool := decide (s.ist = .enabled) && decide (0 < s.irq)

/-- The number of a non-fatal status code (R86). -/
def ErrCode.number : ErrCode → Nat
  | .dupUnit => 0x01
  | .badUnit => 0x02
  | .unknownUnit => 0x03
  | .openFailed => 0x04
  | .unknownLabel => 0x05
  | .imageMalformed => 0x06

/-- The number of a fatal status code, bit 7 set (R86). -/
def FatalCode.number : FatalCode → Nat
  | .reqUnderflow => 0x81
  | .dispatchUnregistered => 0x82
  | .reqOverflow => 0x83

/-- The number of a result's status code (R86). -/
def Result.number : Result → Nat
  | .ok | .okValue _ => 0x00
  | .err e => e.number
  | .fatal f => f.number

end Sys2Proof.Machine
end

