-- ==== Sys2Proof/WellFormed.lean ====
section
/-! DEFINITION. The operand ranges of R87 as a check on the instruction alone. The two bounds that
belong to the machine, MEMWORDS and OPC_WIDTH, are arguments. -/

namespace Sys2Proof

/-- The integer is in `0 .. n-1` (R87). -/
def within (n : Nat) (x : Int) : Bool := decide (0 ≤ x ∧ x < n)

/-- Every operand of the command is in the range R87 gives it. `memWords` is MEMWORDS and
`opcWidth` is OPC_WIDTH. -/
def Instr.wellFormed (memWords opcWidth : Nat) : Instr → Bool
  | .xaInstr a => within 4096 a
  | .xaData a => within 4096 a
  | .intReturn f g => within 8 f && within 8 g
  | .wrIf f => within 8 f
  | .wrDf f => within 8 f
  | .wrIb f => within 8 f
  | .wrSf v => within 128 v
  | .wrUf b => within 2 b
  | .wrUb b => within 2 b
  | .wrUi b => within 2 b
  | .memRd xa => within memWords xa
  | .memWr xa _ => within memWords xa
  | .devDispatch _ c => within (2 ^ opcWidth) c
  | .rdAc | .rdPc | .rdMq | .rdSr | .rdMa | .rdMb | .rdL | .rdRun | .rdLac
  | .wrAc _ | .wrPc _ | .wrMq _ | .wrSr _ | .wrMa _ | .wrMb _ | .wrL _ | .wrRun _ | .wrLac _
  | .rdIf | .rdDf | .rdIb | .rdSf | .rdUf | .rdUb | .rdUi | .branchOrCall | .intEntry
  | .intPost | .intWithdraw | .intDisable | .intEnableDeferred | .intCommit | .intAcceptable
  | .poll | .rdIntState | .rdIntCount
  | .devRegister _ _ _ _ | .devMount _ _ | .devMountLabel _ _ | .devPowerUp _ | .devPowerDown
  | .devInitAll | .sysConfigure _ | .sysStart | .sysReset | .snapSave | .snapLoad _ => true

end Sys2Proof
end

