-- ==== Sys2Proof/Machine/Operands.lean ====
section
/-! DEFINITION. How operands are read: the store functions of the write ports (R101, R102, R115,
R116, R120), the operand ranges (R87), the size of memory (R5) and the extended address (R82). -/

namespace Sys2Proof.Machine

/-- The 12-bit store function `v mod 4096` (R101). -/
def mask12 (v : Int) : Word := BitVec.ofInt 12 v

/-- The 13-bit store function `v mod 8192` (R120). -/
def mask13 (v : Int) : BitVec 13 := BitVec.ofInt 13 v

/-- `v mod 2^w`, with the Euclidean modulo (R8, R115, R116). -/
def maskTo (w : Nat) (v : Int) : Nat := (v % (2 ^ w : Nat)).toNat

/-- The 1-bit coercion: every non-zero integer is 1 (R102). -/
def bool01 (v : Int) : Bool := decide (v ≠ 0)

/-- A coerced integer as a one-bit register's value (R118). -/
def bit01 (v : Int) : Bit := BitVec.ofBool (bool01 v)

/-- `MA_WIDTH` in bits (R6). -/
def maBits : MaWidth → Nat
  | .w12 => 12
  | .w15 => 15

/-- `MEMWORDS` (R5). -/
def memWords : Ema → Nat
  | .off => 4096
  | .on => 32768

/-- `a` is a 12-bit address (R87). -/
def isAddr12 (a : Int) : Bool := within 4096 a

/-- `f` is a field number (R87). -/
def isField (f : Int) : Bool := within 8 f

/-- `b` is a 1-bit value (R87). -/
def isBit (b : Int) : Bool := within 2 b

/-- `v` is a save-field value (R87). -/
def isSave (v : Int) : Bool := within 128 v

/-- `c` is an operation code (R87). -/
def isOpCode (p : Params) (c : Int) : Bool := within (2 ^ p.opcWidth) c

/-- `xa` is an address inside memory (R64, R65, R87). -/
def inMemory (e : Ema) (xa : Int) : Bool := within (memWords e) xa

/-- The extended address of a 12-bit address in a field: the field's number in bits 14:12 with EMA
on, the address alone with EMA off (R82, R140, R141). -/
def extendedAddr (e : Ema) (field : Field) (a : Nat) : Nat :=
  match e with
  | .off => a
  | .on => field.toNat <<< 12 ||| a

end Sys2Proof.Machine
end

