-- ==== Sys2Proof/Machine/Ops.lean ====
section
/-! DEFINITION. The named operations over memory, registers and the ports: memory (R60, R64, R65),
rights (R84), the gate every command passes (R262, R85), the fatal state (R262), the request
counter (R180, R181), taking an interrupt (R143, R182, R266) and returning from one (R144). -/

namespace Sys2Proof.Machine

/-- The outcome of one command. -/
abbrev Outcome := Host.Outcome State Fault Refusal

/-! ### Memory -/

/-- The word at an address (R60). -/
def Memory.read : Memory → Nat → Word
  | [], _ => unlistedWord
  | (k, w) :: rest, a => if k = a then w else Memory.read rest a

/-- The listing of one word: nothing if it is what an unlisted address reads as. -/
def Memory.cell (a : Nat) (w : Word) (rest : Memory) : Memory :=
  if w = unlistedWord then rest else (a, w) :: rest

/-- Memory with the word at `a` replaced (R65), in canonical form if it was. -/
def Memory.write : Memory → Nat → Word → Memory
  | [], a, w => Memory.cell a w []
  | (k, x) :: rest, a, w =>
    if a < k then Memory.cell a w ((k, x) :: rest)
    else if a = k then Memory.cell a w rest
    else (k, x) :: Memory.write rest a w

/-- The canonical form, for the part of a memory at `lo` and above: addresses strictly rise and no
listed word is what an unlisted address reads as. -/
def Memory.wfFrom : Nat → Memory → Bool
  | _, [] => true
  | lo, (k, w) :: rest => decide (lo ≤ k) && decide (w ≠ unlistedWord) && Memory.wfFrom (k + 1) rest

/-- The canonical form of memory. -/
def Memory.wf (m : Memory) : Bool := Memory.wfFrom 0 m

/-- Every listed address is below `n` (R60). -/
def Memory.below (n : Nat) (m : Memory) : Bool := m.all fun c => decide (c.1 < n)

/-- The `n` words from `lo` on with the values `f` gives them. -/
def Memory.generate (f : Nat → Word) : Nat → Nat → Memory
  | _, 0 => []
  | lo, n + 1 => Memory.cell lo (f lo) (Memory.generate f (lo + 1) n)

/-! ### The result port -/

/-- The command returns `r` on the result port (R86). -/
def State.answer (s : State) (r : Result) : State := { s with result := some r }

/-- The command returns `Ok` (R9). -/
def done (s : State) : Outcome := .next (s.answer .ok)

/-- The command returns `Ok(n)` and changes nothing (R9, R100). -/
def giveNum (n : Nat) (s : State) : Outcome := .next (s.answer (.okValue (.num n)))

/-- The command returns `Err(code)` and changes nothing (R9, R260). -/
def fail (code : ErrCode) (s : State) : Outcome := .next (s.answer (.err code))

/-- `raise Fatal(code)`: the block enters the fatal state and halts (R262). -/
def State.raiseFatal (s : State) (code : FatalCode) : State :=
  { s with fatal := some code, run := false, result := some (.fatal code) }

/-! ### Rights -/

/-- The rows of the rights table (R84). -/
inductive Rights where
  /-- reads: core and host -/
  | read
  /-- writes of the core; the host only while `RUN = 0` -/
  | coreWrite
  /-- the host only while `RUN = 0` (`WR_IF`, `WR_UF`, `WR_SF`, `SNAP_LOAD`) -/
  | hostHalted
  /-- the host at any time (`WR_SR`) -/
  | hostAnytime
  /-- `WR_RUN v`: the core; the host while `RUN = 0`, or at any time if the coerced value is 0 -/
  | runSwitch (value : Bool)
  /-- the core -/
  | coreOnly
  /-- the core in `PHASE = Active` -/
  | coreActive
  /-- a device outside dispatch -/
  | deviceOnly
  /-- the host in `PHASE = Config` -/
  | hostConfig
  /-- the host while `PHASE ≠ Down` (mounting) -/
  | hostMount
  /-- the host, also in the fatal state (`DEV_POWER_DOWN`, `SNAP_SAVE`) -/
  | hostAlways
  /-- core or host in `PHASE = Active` (`SYS_RESET`, `DEV_INIT_ALL`) -/
  | resetActive
  deriving DecidableEq, Repr

/-- Whether the issuing agent may issue a command of the row now (R84). -/
def permits (row : Rights) (s : State) : Bool :=
  match row with
  | .read => decide (s.agent ≠ .device)
  | .coreWrite => decide (s.agent = .core ∨ s.agent = .host ∧ s.run = false)
  | .hostHalted => decide (s.agent = .host ∧ s.run = false)
  | .hostAnytime => decide (s.agent = .host)
  | .runSwitch value => decide (s.agent = .core ∨ s.agent = .host ∧ (s.run = false ∨ value = false))
  | .coreOnly => decide (s.agent = .core)
  | .coreActive => decide (s.agent = .core ∧ s.phase = .active)
  | .deviceOnly => decide (s.agent = .device)
  | .hostConfig => decide (s.agent = .host ∧ s.phase = .config)
  | .hostMount => decide (s.agent = .host ∧ s.phase ≠ .down)
  | .hostAlways => decide (s.agent = .host)
  | .resetActive => decide (s.agent ≠ .device ∧ s.phase = .active)

/-- The commands that work in the fatal state: every read, `SNAP_SAVE` and `DEV_POWER_DOWN` (R262). -/
def survivesFatal : Rights → Bool
  | .read | .hostAlways => true
  | .coreWrite | .hostHalted | .hostAnytime | .runSwitch _ | .coreOnly | .coreActive | .deviceOnly
  | .hostConfig | .hostMount | .resetActive => false

/-- The gate every command passes. In the fatal state a command that does not survive it returns
`Fatal(FATAL)` and changes nothing, before any other rule (R262). Otherwise a command its agent may
not issue now is refused (R84, R85), and any other is performed. DEDUCED (log 10): the order of these
checks. -/
def command (row : Rights) (s : State) (body : State → Outcome) : Outcome :=
  match s.fatal, survivesFatal row with
  | some code, false => .next (s.answer (.fatal code))
  | _, _ => if permits row s then body s else .refused .permission

/-- A memory-extension operation that changes state: with EMA off it is the identity (R159). -/
def State.ifEma (s : State) (update : State → State) : State :=
  match s.ema with
  | .off => s
  | .on => update s

/-- What a memory-extension field reads as: 0 with EMA off (R160). -/
def meuValue (e : Ema) (n : Nat) : Nat :=
  match e with
  | .off => 0
  | .on => n

/-! ### The request counter -/

/-- The counter is at its bound, where it has one (R180). -/
def atReqMax (s : State) : Bool := decide (s.params.reqMax = some s.irq)

/-- A request is posted: the counter goes up, or at a finite bound overflows fatally (R180). -/
def postRequest (s : State) : State :=
  if atReqMax s then s.raiseFatal .reqOverflow
  else { s with irq := s.irq + 1, result := some .ok }

/-- A request is withdrawn: the counter goes down, or at 0 underflows fatally (R181). -/
def withdrawRequest (s : State) : State :=
  match s.irq with
  | 0 => s.raiseFatal .reqUnderflow
  | n + 1 => { s with irq := n, result := some .ok }

/-! ### Taking an interrupt, and returning from one -/

/-- Interrupt entry: the fields and the user flag are packed into the save-field register, fields,
buffers and user mode are cleared, and interrupts are disabled (R143); the identity with EMA off
(R159). -/
def State.enterInterrupt (s : State) : State :=
  s.ifEma fun s =>
    { s with sf := packSave s.uf s.ifr s.df, ifr := 0, df := 0, uf := 0, ib := 0, ub := 0,
             ist := .disabled }

/-- `INT_DISABLE`'s effect (R182). -/
def State.disableInterrupts (s : State) : State := { s with ist := .disabled }

/-- The redirect to the vector (R266): under `PDP8_JMS0` the program counter is stored in word 0 and
becomes 1; under `CORE` the block does nothing. -/
def State.redirect (s : State) : State :=
  match s.params.vector with
  | .pdp8Jms0 => { s with mem := Memory.write s.mem 0 s.pc, pc := 1 }
  | .core => s

/-- An accepted interrupt: entry, then disable, then the redirect (R186, R269). -/
def State.takeInterrupt (s : State) : State := s.enterInterrupt.disableInterrupts.redirect

/-- The deferred enable takes effect (R184). -/
def State.commitEnable (s : State) : State :=
  match s.ist with
  | .deferredEnable => { s with ist := .enabled }
  | .disabled | .enabled => s

/-- The return from an interrupt: the data field and the instruction-field buffer are the operands,
the user buffer is the saved user flag (R144); the identity with EMA off (R159). -/
def State.returnFromInterrupt (f g : Field) (s : State) : State :=
  s.ifEma fun s => { s with df := f, ib := g, ub := saveUser s.sf }

/-- Promotion at a branch or subroutine call (R142); the identity with EMA off (R159). -/
def State.promote (s : State) : State :=
  s.ifEma fun s => { s with ifr := s.ib, uf := s.ub, ui := 0 }

/-- Every memory-extension field at 0 (R240, R302). -/
def State.clearMeu (s : State) : State :=
  { s with ifr := 0, df := 0, ib := 0, sf := 0, uf := 0, ub := 0, ui := 0 }

/-! ### Draws -/

/-- One outcome of a finite set, the n-th draw (R9, log 6); `none` if the set is empty. -/
def pick {α : Type} (n : Nat) : List α → Option α
  | [] => none
  | [a] => some a
  | a :: b :: rest => (a :: b :: rest)[Config.choice n % (rest.length + 2)]?

/-- A draw has been made. -/
def State.drew (s : State) : State := { s with draws := s.draws + 1 }

/-! ### Power-up -/

/-- The state at power-up under any parameters (R300, R301): with `Arbitrary`, the data registers and
every word of memory are draws (log 12). -/
def State.powerUp (p : Params) : State :=
  match p.powerUp with
  | .zero => { State.reset with params := p }
  | .arbitrary =>
    { State.reset with
      params := p
      ac := BitVec.ofNat 12 (Config.powerUpRegister 0)
      l := BitVec.ofNat 1 (Config.powerUpRegister 1)
      pc := BitVec.ofNat 12 (Config.powerUpRegister 2)
      mq := BitVec.ofNat 12 (Config.powerUpRegister 3)
      sr := maskTo p.srWidth (Config.powerUpRegister 4)
      ma := maskTo (maBits p.maWidth) (Config.powerUpRegister 5)
      mb := BitVec.ofNat 12 (Config.powerUpRegister 6)
      mem := Memory.generate (Config.powerUpWord 0) 0 4096
      draws := 1 }

/-- Memory after `SYS_CONFIGURE`: every word 0, or under `Arbitrary` every word a draw (R240, R301). -/
def State.freshMemory (e : Ema) (s : State) : State :=
  match s.params.powerUp with
  | .zero => { s with mem := [] }
  | .arbitrary =>
    { s.drew with mem := Memory.generate (Config.powerUpWord s.draws) 0 (memWords e) }

end Sys2Proof.Machine
end

