-- ==== Sys2Proof/Machine/Devices.lean ====
section
/-! DEFINITION. Device behaviours (R210): the outcome each of a device's handlers gives, from its
table where the parameters hold one and from the uninterpreted functions of `Config` where they do
not; and running a handler over the registry in registration order (R214, R215, R217). -/

namespace Sys2Proof

/-- FREE VALUE. The n-th draw from the dispatch relation of an uninterpreted device (R210): its new
state and the commands its handler issues, from the operation code and the block's state at the
call. -/
opaque Config.dispatchFn (dev : DevId) (d : DState) (c : Nat) (s : Machine.State) (n : Nat) :
    Option (DState × List Instr)

end Sys2Proof

namespace Sys2Proof.Machine

/-- The table of a device behaviour, if the parameters hold one: the first of its name. -/
def deviceTable (p : Params) (dev : DevId) : Option DeviceTable :=
  (p.devices.find? fun e => decide (e.1 = dev)).map Prod.snd

/-- A row's guard matches: it names no value, or this one. -/
def guards {α : Type} [DecidableEq α] (guard : Option α) (x : α) : Bool :=
  match guard with
  | none => true
  | some y => decide (y = x)

/-- The initial device state (R210). -/
def initialState (p : Params) (dev : DevId) : DState :=
  match deviceTable p dev with
  | some t => t.init0
  | none => Config.devInit0 dev

/-- The n-th draw from a record's mount relation (R210, R212). -/
def mountOutcome (p : Params) (r : DeviceRecord) (path : String) (n : Nat) : Option MountOutcome :=
  match deviceTable p r.dev with
  | some t =>
    pick n ((t.mount.filter fun row => guards row.dstate r.dstate && guards row.path path).map
      fun row => row.outcome)
  | none => Config.mountFn r.dev r.dstate path n

/-- The block's state as a dispatch handler may see it: the model's own fields and the ports are
blanked (log 7). -/
def blockView (s : State) : State :=
  { s with result := none, agent := .core, inbox := [], draws := 0, flagged := false }

/-- The n-th draw from a record's dispatch relation (R210, R216). -/
def dispatchOutcome (s : State) (r : DeviceRecord) (c : Nat) (n : Nat) :
    Option (DState × List Instr) :=
  match deviceTable s.params r.dev with
  | some t =>
    pick n ((t.dispatch.filter fun row => guards row.dstate r.dstate && guards row.code c).map
      fun row => (row.next, row.cmds))
  | none => Config.dispatchFn r.dev r.dstate c (blockView s) n

/-- The n-th draw from a record's power relation (R210, R214, R215). -/
def powerOutcome (p : Params) (dir : PowerDir) (argv : List String) (r : DeviceRecord) (n : Nat) :
    Option DState :=
  match deviceTable p r.dev with
  | some t =>
    pick n ((t.power.filter fun row => guards row.dstate r.dstate && guards row.dir dir).map
      fun row => row.next)
  | none => Config.powerFn r.dev r.dstate dir argv n

/-- The n-th draw from a record's init relation (R210, R217). -/
def initOutcome (p : Params) (r : DeviceRecord) (n : Nat) : Option DState :=
  match deviceTable p r.dev with
  | some t => pick n ((t.init.filter fun row => guards row.dstate r.dstate).map fun row => row.next)
  | none => Config.initFn r.dev r.dstate n

/-- The n-th draw from a record's step relation (R210, R221). -/
def stepOutcome (p : Params) (r : DeviceRecord) (n : Nat) : Option (DState × List StepCmd) :=
  match deviceTable p r.dev with
  | some t =>
    pick n ((t.step.filter fun row => guards row.dstate r.dstate).map fun row => (row.next, row.cmds))
  | none => Config.stepFn r.dev r.dstate n

/-- The record of a unit (R43). -/
def findUnit (reg : List DeviceRecord) (u : Nat) : Option DeviceRecord :=
  reg.find? fun r => decide (r.unit = u)

/-- The first record with a label, in registration order (R213). -/
def findLabel (reg : List DeviceRecord) (lbl : String) : Option DeviceRecord :=
  reg.find? fun r => decide (r.label = lbl)

/-- The registry with the record of a unit changed. -/
def updateUnit (u : Nat) (f : DeviceRecord → DeviceRecord) (reg : List DeviceRecord) :
    List DeviceRecord :=
  reg.map fun r => if r.unit = u then f r else r

/-- One handler of every record, in registration order, the draws numbered from `n` on: the registry
with the new device states and the number of the next draw, or the unit whose handler has no
outcome (R214, R215, R217). -/
def drawEach (f : DeviceRecord → Nat → Option DState) :
    Nat → List DeviceRecord → Except Nat (List DeviceRecord × Nat)
  | n, [] => .ok ([], n)
  | n, r :: rest =>
    match f r n with
    | none => .error r.unit
    | some d =>
      match drawEach f (n + 1) rest with
      | .error u => .error u
      | .ok (reg, m) => .ok ({ r with dstate := d } :: reg, m)

/-- Run one handler of every record and go on with the new registry; a handler with no outcome leaves
the block stuck (R9, R218). -/
def forEachDevice (h : Handler) (f : DeviceRecord → Nat → Option DState) (s : State)
    (go : State → Outcome) : Outcome :=
  match drawEach f s.draws s.reg with
  | .error u => .fault (.noOutcome h u)
  | .ok (reg, n) => go { s with reg := reg, draws := n }

end Sys2Proof.Machine
end

