-- ==== Sys2Proof/Machine/DeviceRegistry.lean ====
section
/-! DEFINITION. The Device Registry commands (43_device_registry.md), but for `DEV_DISPATCH`, which
performs other commands and stands in `Machine/DeviceDispatch.lean`. -/

namespace Sys2Proof.Machine

/-- `DEV_REGISTER u, nm, lbl, dev` (R211). -/
def execDevRegister (u : Nat) (nm lbl : String) (dev : DevId) (s : State) : Outcome :=
  command .hostConfig s fun s =>
    if s.params.unitCount ≤ u then fail .badUnit s
    else
      match findUnit s.reg u with
      | some _ => fail .dupUnit s
      | none =>
        done { s with
          reg := s.reg ++ [{ unit := u, name := nm, label := lbl, dev := dev, mounted := none,
                             dstate := initialState s.params dev }] }

/-- Mounting a resource on a record (R212): the outcome is drawn from the record's mount relation. -/
def mountRecord (r : DeviceRecord) (path : String) (s : State) : Outcome :=
  match mountOutcome s.params r path s.draws with
  | none => .fault (.noOutcome .mount r.unit)
  | some (.mounted d) =>
    done { s.drew with
      reg := updateUnit r.unit (fun r => { r with dstate := d, mounted := some path }) s.reg }
  | some .openFailed => fail .openFailed s.drew

/-- `DEV_MOUNT u, path` (R212). -/
def execDevMount (u : Nat) (path : String) (s : State) : Outcome :=
  command .hostMount s fun s =>
    match findUnit s.reg u with
    | none => fail .unknownUnit s
    | some r => mountRecord r path s

/-- `DEV_MOUNT_LABEL lbl, path`: the first record with the label is mounted (R213). -/
def execDevMountLabel (lbl path : String) (s : State) : Outcome :=
  command .hostMount s fun s =>
    match findLabel s.reg lbl with
    | none => fail .unknownLabel s
    | some r => mountRecord r path s

/-- `DEV_POWER_UP argv`: once only, every device's power handler in registration order (R214). -/
def execDevPowerUp (argv : List String) (s : State) : Outcome :=
  command .hostConfig s fun s =>
    if s.pwr then .refused .permission
    else
      forEachDevice .power (powerOutcome s.params .up argv) s fun s => done { s with pwr := true }

/-- `DEV_POWER_DOWN`: every device's power handler, then the block is halted and down (R215, log 18). -/
def execDevPowerDown (s : State) : Outcome :=
  command .hostAlways s fun s =>
    forEachDevice .power (powerOutcome s.params .down []) s fun s =>
      done { s with run := false, phase := .down }

/-- `DEV_INIT_ALL`: every device's init handler in registration order (R217). -/
def execDevInitAll (s : State) : Outcome :=
  command .resetActive s fun s => forEachDevice .init (initOutcome s.params) s done

end Sys2Proof.Machine
end

