-- ==== Sys2Proof/Machine/Images.lean ====
section
/-! DEFINITION. Core images (R243 to R247): the content of a state's image, the checks on a decoded
content, the open byte format, and loading. -/

namespace Sys2Proof.Machine

/-- The memory-extension fields of an image, where the unit exists (R245). -/
def meuContent (s : State) : Option MeuContent :=
  match s.ema with
  | .off => none
  | .on => some
    { ifr := s.ifr.toNat, df := s.df.toNat, ib := s.ib.toNat, sf := s.sf.toNat, uf := s.uf.toNat,
      ub := s.ub.toNat, ui := s.ui.toNat }

/-- The content of a core image of this state (R245). -/
def imageContent (s : State) : ImageContent :=
  { ema := s.ema, words := memWords s.ema, cells := s.mem.map fun c => (c.1, c.2.toNat),
    ac := s.ac.toNat, l := s.l.toNat, pc := s.pc.toNat, mq := s.mq.toNat, sr := s.sr, ma := s.ma,
    mb := s.mb.toNat, run := s.run.toNat, meu := meuContent s, ie := s.ist.ie.toNat,
    idef := s.ist.idef.toNat, irq := s.irq }

/-- The cells of an image are a memory of `n` words in canonical form, each word below 4096 (R247). -/
def imageCellsValid (n : Nat) : Nat → List (Nat × Nat) → Bool
  | _, [] => true
  | lo, (k, w) :: rest =>
    decide (lo ≤ k) && decide (k < n) && decide (0 < w) && decide (w < 4096) &&
      imageCellsValid n (k + 1) rest

/-- The memory-extension fields of an image are there exactly with EMA on, each within its width
(R245, R247). -/
def imageMeuValid (e : Ema) (m : Option MeuContent) : Bool :=
  match e, m with
  | .off, none => true
  | .on, some m =>
    decide (m.ifr < 8) && decide (m.df < 8) && decide (m.ib < 8) && decide (m.sf < 128) &&
      decide (m.uf < 2) && decide (m.ub < 2) && decide (m.ui < 2)
  | .off, some _ => false
  | .on, none => false

/-- The counter of an image is within `REQ_MAX` (R247). -/
def imageIrqValid (p : Params) (irq : Nat) : Bool :=
  match p.reqMax with
  | none => true
  | some m => decide (irq ≤ m)

/-- The checks of R247 on a decoded content, under the parameters and the configured feature switch. -/
def contentValid (p : Params) (e : Ema) (c : ImageContent) : Bool :=
  decide (c.ema = e) && decide (c.words = memWords e) && imageCellsValid (memWords e) 0 c.cells &&
  decide (c.ac < 4096) && decide (c.l < 2) && decide (c.pc < 4096) && decide (c.mq < 4096) &&
  decide (c.sr < 2 ^ p.srWidth) && decide (c.ma < 2 ^ maBits p.maWidth) &&
  decide (c.mb < 4096) && decide (c.run < 2) && imageMeuValid e c.meu &&
  (istOfBits c.ie c.idef).isSome && imageIrqValid p c.irq

/-- An `IMAGE_FORMAT` under the parameters (R246): a pair of functions that gives back every content
that passes R247, with EMA off or on. -/
structure ImageFormat (p : Params) where
  encode : ImageContent → Image
  decode : Image → Option ImageContent
  decode_encode : ∀ (e : Ema) (c : ImageContent), contentValid p e c = true →
    decode (encode c) = some c

/-- A content's fields as nested pairs, which Mathlib numbers. -/
abbrev ImageFields : Type :=
  (Bool × Nat × List (Nat × Nat)) × (Nat × Nat × Nat × Nat × Nat × Nat × Nat × Nat) ×
  Option (Nat × Nat × Nat × Nat × Nat × Nat × Nat) × (Nat × Nat × Nat)

/-- The fields of a content. -/
def imageFields (c : ImageContent) : ImageFields :=
  ((decide (c.ema = .on), c.words, c.cells), (c.ac, c.l, c.pc, c.mq, c.sr, c.ma, c.mb, c.run),
    c.meu.map (fun m => (m.ifr, m.df, m.ib, m.sf, m.uf, m.ub, m.ui)), (c.ie, c.idef, c.irq))

/-- The content with the given fields. -/
def ofImageFields : ImageFields → ImageContent
  | ((ema, words, cells), (ac, l, pc, mq, sr, ma, mb, run), meu, (ie, idef, irq)) =>
    { ema := if ema then .on else .off, words := words, cells := cells, ac := ac, l := l, pc := pc,
      mq := mq, sr := sr, ma := ma, mb := mb, run := run, ie := ie, idef := idef, irq := irq,
      meu := meu.map fun | (ifr, df, ib, sf, uf, ub, ui) => ⟨ifr, df, ib, sf, uf, ub, ui⟩ }

theorem ofImageFields_imageFields (c : ImageContent) : ofImageFields (imageFields c) = c := by
  obtain ⟨ema, _, _, _, _, _, _, _, _, _, _, meu, _, _, _⟩ := c
  cases ema <;> cases meu <;> rfl

/-- One image format, which shows that there is one under any parameters: as many zero bytes as
Mathlib's number of the content's fields. No image of the model is in it: what the model uses is the
open `Config.imageFormat`. -/
def unaryFormat (p : Params) : ImageFormat p where
  encode c := List.replicate (Encodable.encode (imageFields c)) 0
  decode b := (Encodable.decode b.length).map ofImageFields
  decode_encode _ c _ := by
    rw [List.length_replicate, Encodable.encodek, Option.map_some, ofImageFields_imageFields]

end Sys2Proof.Machine

namespace Sys2Proof

/-- FREE VALUE. The `IMAGE_FORMAT` of the implementation (R6, R246): any pair of functions that obeys
the law of R246. The argument says that there is one; no proof can see which one this is. -/
opaque Config.imageFormat (p : Params) [Inhabited (Machine.ImageFormat p)] : Machine.ImageFormat p

end Sys2Proof

namespace Sys2Proof.Machine

/-- The implementation's `IMAGE_FORMAT` (R246). -/
def imageFormat (p : Params) : ImageFormat p := @Config.imageFormat p ⟨unaryFormat p⟩

/-- The bytes of a content in `IMAGE_FORMAT` (R246). -/
def encodeImage (p : Params) (c : ImageContent) : Image := (imageFormat p).encode c

/-- What `IMAGE_FORMAT` decodes an image to, if it does (R246). -/
def decodeImage (p : Params) (img : Image) : Option ImageContent := (imageFormat p).decode img

/-- `IMAGE_FORMAT` gives back every content that passes the checks (R246). -/
theorem decodeImage_encodeImage {p : Params} {e : Ema} {c : ImageContent}
    (h : contentValid p e c = true) : decodeImage p (encodeImage p c) = some c :=
  (imageFormat p).decode_encode e c h

/-- The memory-extension fields of an image become the state's (R244). -/
def State.loadMeu (s : State) (m : Option MeuContent) : State :=
  match m with
  | none => s
  | some m =>
    { s with ifr := BitVec.ofNat 3 m.ifr, df := BitVec.ofNat 3 m.df, ib := BitVec.ofNat 3 m.ib,
             sf := BitVec.ofNat 7 m.sf, uf := BitVec.ofNat 1 m.uf, ub := BitVec.ofNat 1 m.ub,
             ui := BitVec.ofNat 1 m.ui }

/-- Every element of a valid image becomes the state's (R244), `RUN` too in every phase: DEDUCED
(log 15). -/
def State.loadContent (s : State) (c : ImageContent) : State :=
  { s.loadMeu c.meu with
    ema := c.ema
    mem := c.cells.map fun e => (e.1, BitVec.ofNat 12 e.2)
    ac := BitVec.ofNat 12 c.ac
    l := BitVec.ofNat 1 c.l
    pc := BitVec.ofNat 12 c.pc
    mq := BitVec.ofNat 12 c.mq
    sr := c.sr
    ma := c.ma
    mb := BitVec.ofNat 12 c.mb
    run := decide (c.run = 1)
    ist := (istOfBits c.ie c.idef).getD .disabled
    irq := c.irq }

/-- Loading an image: one that does not decode, or whose content fails a check of R247, returns
`E_IMAGE_MALFORMED` and changes nothing (R244). -/
def State.loadImage (s : State) (img : Image) : State :=
  match decodeImage s.params img with
  | none => s.answer (.err .imageMalformed)
  | some c =>
    if contentValid s.params s.ema c then (s.loadContent c).answer .ok
    else s.answer (.err .imageMalformed)

end Sys2Proof.Machine
end

