-- ==== Sys2Proof/Machine/HostInterface.lean ====
section
/-! DEFINITION. The host interface commands (44_host_interface.md) and `SYS_RESET`
(70_reset_and_hazards.md R302). -/

namespace Sys2Proof.Machine

/-- `SYS_CONFIGURE ema`: the feature switch, fresh memory and a cleared memory-extension unit (R240). -/
def execSysConfigure (ema : Ema) (s : State) : Outcome :=
  command .hostConfig s fun s =>
    done { s.clearMeu.freshMemory ema with ema := ema }

/-- `SYS_START` (R241). -/
def execSysStart (s : State) : Outcome :=
  command .hostConfig s fun s => done { s with phase := .active }

/-- What `SYS_RESET` clears before the init handlers run (R302). -/
def State.clearForReset (s : State) : State :=
  { s.clearMeu with ac := 0, l := 0, mq := 0, ma := 0, mb := 0, ist := .disabled, irq := 0 }

/-- `SYS_RESET`: the working registers, the memory-extension unit and the interrupt controller are
cleared and every device's init handler runs (R302, R303). -/
def execSysReset (s : State) : Outcome :=
  command .resetActive s fun s =>
    forEachDevice .init (initOutcome s.params) s.clearForReset done

/-- `SNAP_SAVE`: the image of the state in `IMAGE_FORMAT` (R243, R245, R246). -/
def execSnapSave (s : State) : Outcome :=
  command .hostAlways s fun s =>
    .next (s.answer (.okValue (.image (encodeImage s.params (imageContent s)))))

/-- `SNAP_LOAD img` (R244). -/
def execSnapLoad (img : Image) (s : State) : Outcome :=
  command .hostHalted s fun s => .next (s.loadImage img)

end Sys2Proof.Machine
end

