-- ==== Sys2Proof/Machine/InterruptController.lean ====
section
/-! DEFINITION. The Interrupt Controller commands (42_interrupt_controller.md). -/

namespace Sys2Proof.Machine

/-- `INT_POST` (R180), in every phase: DEDUCED (log 15). -/
def execIntPost (s : State) : Outcome := command .deviceOnly s fun s => .next (postRequest s)

/-- `INT_WITHDRAW` (R181). -/
def execIntWithdraw (s : State) : Outcome :=
  command .deviceOnly s fun s => .next (withdrawRequest s)

/-- `INT_DISABLE` (R182). -/
def execIntDisable (s : State) : Outcome := command .coreOnly s fun s => done s.disableInterrupts

/-- The effect of `INT_ENABLE_DEFERRED` (R183). When the controller is Enabled already, the parameter
`ION_WHEN_ENABLED` decides; under `Any` the new state is a draw. -/
def enableDeferred (s : State) : State :=
  match s.ist with
  | .disabled | .deferredEnable => { s with ist := .deferredEnable }
  | .enabled =>
    match s.params.ion with
    | .keep => s
    | .defer => { s with ist := .deferredEnable }
    | .any => { s.drew with ist := if Config.ionKeeps s.draws then .enabled else .deferredEnable }

/-- `INT_ENABLE_DEFERRED` (R183). -/
def execIntEnableDeferred (s : State) : Outcome :=
  command .coreOnly s fun s => done (enableDeferred s)

/-- `INT_COMMIT` (R184). -/
def execIntCommit (s : State) : Outcome := command .coreActive s fun s => done s.commitEnable

/-- `INT_ACCEPTABLE` (R185). -/
def execIntAcceptable (s : State) : Outcome :=
  command .read s fun s => giveNum (acceptable s).toNat s

/-- `POLL`: the acceptance test first; an accepted interrupt is taken, otherwise a deferred enable
takes effect (R186). -/
def execPoll (s : State) : Outcome :=
  command .coreActive s fun s =>
    if acceptable s then .next (s.takeInterrupt.answer (.okValue .taken))
    else .next (s.commitEnable.answer (.okValue .notTaken))

/-- `RD_INT_STATE` (R187, R83). -/
def execRdIntState (s : State) : Outcome := command .read s fun s => giveNum (istCode s.ist) s

/-- `RD_INT_COUNT` (R188). -/
def execRdIntCount (s : State) : Outcome := command .read s fun s => giveNum s.irq s

end Sys2Proof.Machine
end

