-- ==== Sys2Proof/Machine/MemoryAccess.lean ====
section
/-! DEFINITION. The memory commands (20_memory.md). -/

namespace Sys2Proof.Machine

/-- `MEM_RD xa` (R64). -/
def execMemRd (xa : Int) (s : State) : Outcome :=
  command .read s fun s =>
    if inMemory s.ema xa then giveNum (Memory.read s.mem xa.toNat).toNat s else .refused .addrRange

/-- `MEM_WR xa, v` (R65). -/
def execMemWr (xa v : Int) (s : State) : Outcome :=
  command .coreWrite s fun s =>
    if inMemory s.ema xa then done { s with mem := Memory.write s.mem xa.toNat (mask12 v) }
    else .refused .addrRange

end Sys2Proof.Machine
end

