-- ==== Sys2Proof/Machine/MemoryExtension.lean ====
section
/-! DEFINITION. The Memory Extension Unit commands (41_memory_extension.md). -/

namespace Sys2Proof.Machine

/-- `RD_IF` (R145); 0 with EMA off (R160). -/
def execRdIf (s : State) : Outcome :=
  command .read s fun s => giveNum (meuValue s.ema s.ifr.toNat) s

/-- `RD_DF` (R146); 0 with EMA off (R160). -/
def execRdDf (s : State) : Outcome :=
  command .read s fun s => giveNum (meuValue s.ema s.df.toNat) s

/-- `RD_IB` (R147); 0 with EMA off (R160). -/
def execRdIb (s : State) : Outcome :=
  command .read s fun s => giveNum (meuValue s.ema s.ib.toNat) s

/-- `RD_SF` (R148); 0 with EMA off (R160). -/
def execRdSf (s : State) : Outcome :=
  command .read s fun s => giveNum (meuValue s.ema s.sf.toNat) s

/-- `RD_UF` (R149); 0 with EMA off (R160). -/
def execRdUf (s : State) : Outcome :=
  command .read s fun s => giveNum (meuValue s.ema s.uf.toNat) s

/-- `RD_UB` (R150); 0 with EMA off (R160). -/
def execRdUb (s : State) : Outcome :=
  command .read s fun s => giveNum (meuValue s.ema s.ub.toNat) s

/-- `RD_UI` (R151); 0 with EMA off (R160). -/
def execRdUi (s : State) : Outcome :=
  command .read s fun s => giveNum (meuValue s.ema s.ui.toNat) s

/-- `XA_INSTR a`: the extended address in the active instruction field (R140). -/
def execXaInstr (a : Int) (s : State) : Outcome :=
  command .read s fun s =>
    if isAddr12 a then giveNum (extendedAddr s.ema s.ifr a.toNat) s else .refused .operand

/-- `XA_DATA a`: the extended address in the data field (R141). -/
def execXaData (a : Int) (s : State) : Outcome :=
  command .read s fun s =>
    if isAddr12 a then giveNum (extendedAddr s.ema s.df a.toNat) s else .refused .operand

/-- `BRANCH_OR_CALL` (R142). -/
def execBranchOrCall (s : State) : Outcome := command .coreOnly s fun s => done s.promote

/-- `INT_ENTRY` (R143). -/
def execIntEntry (s : State) : Outcome := command .coreOnly s fun s => done s.enterInterrupt

/-- `INT_RETURN f, g` (R144). -/
def execIntReturn (f g : Int) (s : State) : Outcome :=
  command .coreOnly s fun s =>
    if isField f && isField g then
      done (s.returnFromInterrupt (BitVec.ofInt 3 f) (BitVec.ofInt 3 g))
    else .refused .operand

/-- `WR_IF` (R152); no effect with EMA off (R159). -/
def execWrIf (f : Int) (s : State) : Outcome :=
  command .hostHalted s fun s =>
    if isField f then done (s.ifEma fun s => { s with ifr := BitVec.ofInt 3 f })
    else .refused .operand

/-- `WR_DF` (R153); no effect with EMA off (R159). -/
def execWrDf (f : Int) (s : State) : Outcome :=
  command .coreWrite s fun s =>
    if isField f then done (s.ifEma fun s => { s with df := BitVec.ofInt 3 f })
    else .refused .operand

/-- `WR_IB` (R154); no effect with EMA off (R159). -/
def execWrIb (f : Int) (s : State) : Outcome :=
  command .coreWrite s fun s =>
    if isField f then done (s.ifEma fun s => { s with ib := BitVec.ofInt 3 f })
    else .refused .operand

/-- `WR_SF` (R155); no effect with EMA off (R159). -/
def execWrSf (v : Int) (s : State) : Outcome :=
  command .hostHalted s fun s =>
    if isSave v then done (s.ifEma fun s => { s with sf := BitVec.ofInt 7 v })
    else .refused .operand

/-- `WR_UF` (R156); no effect with EMA off (R159). -/
def execWrUf (b : Int) (s : State) : Outcome :=
  command .hostHalted s fun s =>
    if isBit b then done (s.ifEma fun s => { s with uf := BitVec.ofInt 1 b })
    else .refused .operand

/-- `WR_UB` (R157); no effect with EMA off (R159). -/
def execWrUb (b : Int) (s : State) : Outcome :=
  command .coreWrite s fun s =>
    if isBit b then done (s.ifEma fun s => { s with ub := BitVec.ofInt 1 b })
    else .refused .operand

/-- `WR_UI` (R158); no effect with EMA off (R159). -/
def execWrUi (b : Int) (s : State) : Outcome :=
  command .coreWrite s fun s =>
    if isBit b then done (s.ifEma fun s => { s with ui := BitVec.ofInt 1 b })
    else .refused .operand

end Sys2Proof.Machine
end

