-- ==== Sys2Proof/Machine/RegisterFile.lean ====
section
/-! DEFINITION. The Register File commands (40_register_file.md). -/

namespace Sys2Proof.Machine

/-- `RD_AC` (R103). -/
def execRdAc (s : State) : Outcome := command .read s fun s => giveNum s.ac.toNat s

/-- `RD_PC` (R104). -/
def execRdPc (s : State) : Outcome := command .read s fun s => giveNum s.pc.toNat s

/-- `RD_MQ` (R105). -/
def execRdMq (s : State) : Outcome := command .read s fun s => giveNum s.mq.toNat s

/-- `RD_SR` (R106). -/
def execRdSr (s : State) : Outcome := command .read s fun s => giveNum s.sr s

/-- `RD_MA` (R107). -/
def execRdMa (s : State) : Outcome := command .read s fun s => giveNum s.ma s

/-- `RD_MB` (R108). -/
def execRdMb (s : State) : Outcome := command .read s fun s => giveNum s.mb.toNat s

/-- `RD_L` (R109). -/
def execRdL (s : State) : Outcome := command .read s fun s => giveNum s.l.toNat s

/-- `RD_RUN` (R110). -/
def execRdRun (s : State) : Outcome := command .read s fun s => giveNum s.run.toNat s

/-- `RD_LAC` (R111). -/
def execRdLac (s : State) : Outcome := command .read s fun s => giveNum (packLac s.l s.ac).toNat s

/-- `WR_AC v` (R112). -/
def execWrAc (v : Int) (s : State) : Outcome :=
  command .coreWrite s fun s => done { s with ac := mask12 v }

/-- `WR_PC v` (R113). -/
def execWrPc (v : Int) (s : State) : Outcome :=
  command .coreWrite s fun s => done { s with pc := mask12 v }

/-- `WR_MQ v` (R114). -/
def execWrMq (v : Int) (s : State) : Outcome :=
  command .coreWrite s fun s => done { s with mq := mask12 v }

/-- `WR_SR v` (R115). -/
def execWrSr (v : Int) (s : State) : Outcome :=
  command .hostAnytime s fun s => done { s with sr := maskTo s.params.srWidth v }

/-- `WR_MA v` (R116). -/
def execWrMa (v : Int) (s : State) : Outcome :=
  command .coreWrite s fun s => done { s with ma := maskTo (maBits s.params.maWidth) v }

/-- `WR_MB v` (R117). -/
def execWrMb (v : Int) (s : State) : Outcome :=
  command .coreWrite s fun s => done { s with mb := mask12 v }

/-- `WR_L v` (R118). -/
def execWrL (v : Int) (s : State) : Outcome :=
  command .coreWrite s fun s => done { s with l := bit01 v }

/-- `WR_RUN v`: starting is refused outside `PHASE = Active` (R119). -/
def execWrRun (v : Int) (s : State) : Outcome :=
  command (.runSwitch (bool01 v)) s fun s =>
    if bool01 v = true ∧ s.phase ≠ .active then .refused .permission
    else done { s with run := bool01 v }

/-- `WR_LAC v`: bit 12 of `v mod 8192` to the link, bits 11:0 to the accumulator (R120). -/
def execWrLac (v : Int) (s : State) : Outcome :=
  command .coreWrite s fun s => done { s with l := lacLink (mask13 v), ac := lacWord (mask13 v) }

end Sys2Proof.Machine
end

