-- ==== Sys2Proof/Machine/DeviceDispatch.lean ====
section
/-! DEFINITION. `DEV_DISPATCH` (R216) and the autonomous device step (R221): the two ways a device
changes the state of the block. -/

namespace Sys2Proof.Machine

/-- A dispatch handler has issued `INT_ENTRY` or `INT_DISABLE`, which is flagged (R317, log 17). -/
def State.flag (s : State) : State := { s with flagged := true }

/-- One command of a dispatch handler, performed with the core's rights (R84, R216), in a state whose
issuing agent is the core: posting and withdrawing are allowed as well, `DEV_DISPATCH`, `POLL` and
`INT_COMMIT` are not, and a command only the host may issue is refused. -/
def handlerCommand (k : Instr) (s : State) : Outcome :=
  match k with
  | .rdAc => execRdAc s
  | .rdPc => execRdPc s
  | .rdMq => execRdMq s
  | .rdSr => execRdSr s
  | .rdMa => execRdMa s
  | .rdMb => execRdMb s
  | .rdL => execRdL s
  | .rdRun => execRdRun s
  | .rdLac => execRdLac s
  | .wrAc v => execWrAc v s
  | .wrPc v => execWrPc v s
  | .wrMq v => execWrMq v s
  | .wrSr _ => .refused .permission
  | .wrMa v => execWrMa v s
  | .wrMb v => execWrMb v s
  | .wrL v => execWrL v s
  | .wrRun v => execWrRun v s
  | .wrLac v => execWrLac v s
  | .rdIf => execRdIf s
  | .rdDf => execRdDf s
  | .rdIb => execRdIb s
  | .rdSf => execRdSf s
  | .rdUf => execRdUf s
  | .rdUb => execRdUb s
  | .rdUi => execRdUi s
  | .xaInstr a => execXaInstr a s
  | .xaData a => execXaData a s
  | .branchOrCall => execBranchOrCall s
  | .intEntry => execIntEntry s.flag
  | .intReturn f g => execIntReturn f g s
  | .wrIf _ => .refused .permission
  | .wrDf f => execWrDf f s
  | .wrIb f => execWrIb f s
  | .wrSf _ => .refused .permission
  | .wrUf _ => .refused .permission
  | .wrUb b => execWrUb b s
  | .wrUi b => execWrUi b s
  | .intPost => .next (postRequest s)
  | .intWithdraw => .next (withdrawRequest s)
  | .intDisable => execIntDisable s.flag
  | .intEnableDeferred => execIntEnableDeferred s
  | .intCommit  => .refused .permission
  | .intAcceptable => execIntAcceptable s
  | .poll  => .refused .permission
  | .rdIntState => execRdIntState s
  | .rdIntCount => execRdIntCount s
  | .memRd xa => execMemRd xa s
  | .memWr xa v => execMemWr xa v s
  | .devRegister _ _ _ _ => .refused .permission
  | .devMount _ _ => .refused .permission
  | .devMountLabel _ _ => .refused .permission
  | .devDispatch _ _ => .refused .permission
  | .devPowerUp _ => .refused .permission
  | .devPowerDown  => .refused .permission
  | .devInitAll => execDevInitAll s
  | .sysConfigure _ => .refused .permission
  | .sysStart  => .refused .permission
  | .sysReset => execSysReset s
  | .snapSave  => .refused .permission
  | .snapLoad _ => .refused .permission

/-- The commands of a dispatch handler, in order (R216): a refused one refuses the whole dispatch, and
nothing is performed after one that raised a fatal error. DEDUCED (log 22): the reason is
`Permission` whatever the command's own was. -/
def runHandler : List Instr → State → Outcome
  | [], s => .next s
  | k :: ks, s =>
    match handlerCommand k s with
    | .next t => if t.fatal.isSome then .next t else runHandler ks t
    | .refused _ => .refused .permission
    | .fault f => .fault f

/-- The registry with a unit's device state replaced (R216, R221). -/
def State.setDState (u : Nat) (d : DState) (s : State) : State :=
  { s with reg := updateUnit u (fun r => { r with dstate := d }) s.reg }

/-- A dispatch to a record (R216): the handler's commands, then the device's new state; after a fatal
error the fatal state holds and the device's state is as it was. -/
def dispatchTo (r : DeviceRecord) (c : Nat) (s : State) : Outcome :=
  match dispatchOutcome s r c s.draws with
  | none => .fault (.noOutcome .dispatch r.unit)
  | some (d, cmds) =>
    match runHandler cmds s.drew with
    | .next t => if t.fatal.isSome then .next t else done (t.setDState r.unit d)
    | .refused e => .refused e
    | .fault e => .fault e

/-- `DEV_DISPATCH u, c` (R216). -/
def execDevDispatch (u : Nat) (c : Int) (s : State) : Outcome :=
  command .coreActive s fun s =>
    if isOpCode s.params c then
      match findUnit s.reg u with
      | none => .next (s.raiseFatal .dispatchUnregistered)
      | some r => dispatchTo r c.toNat s
    else .refused .operand

/-- One command of an autonomous device step (R221). -/
def stepCommand : StepCmd → State → State
  | .post, s => postRequest s
  | .withdraw, s => withdrawRequest s

/-- The commands of an autonomous device step, in order; nothing is performed after a fatal error
(R221, R262). -/
def runStep : List StepCmd → State → State
  | [], s => s
  | k :: ks, s =>
    if (stepCommand k s).fatal.isSome then stepCommand k s else runStep ks (stepCommand k s)

/-- What a device step leaves: its commands performed and the device's new state; after a fatal error
the fatal state holds and the device's state is as it was. The result port keeps what the last command
returned, unless the step raised a fatal error. DESIGN CHOICE (log 14). -/
def State.steppedTo (u : Nat) (d : DState) (cmds : List StepCmd) (s : State) : State :=
  if (runStep cmds s).fatal.isSome then runStep cmds s
  else { (runStep cmds s).setDState u d with result := s.result }

/-- An autonomous step of a record's device: a step relation with no outcome leaves the block stuck
(R9, R218, R221). -/
def stepRecord (r : DeviceRecord) (s : State) : Outcome :=
  match stepOutcome s.params r s.draws with
  | none => .fault (.noOutcome .step r.unit)
  | some (d, cmds) => .next (s.drew.steppedTo r.unit d cmds)

/-- An autonomous step of the device registered at a unit (R221). Outside `PHASE = Active`, in the
fatal state and where the unit has no record no device step is taken: DEDUCED (log 11). -/
def deviceStep (u : Nat) (s : State) : Outcome :=
  if s.phase = .active ∧ s.fatal = none then
    match findUnit s.reg u with
    | none => .next s
    | some r => stepRecord r s
  else .next s

end Sys2Proof.Machine
end

