-- ==== Sys2Proof/Machine/Dispatch.lean ====
section
/-! DEFINITION. The dispatch of every command to its meaning. -/

namespace Sys2Proof.Machine

def exec (i : Instr) (s : State) : Host.Outcome State Fault Refusal :=
  match i with
  | .rdAc => Sys2Proof.Machine.execRdAc s
  | .rdPc => Sys2Proof.Machine.execRdPc s
  | .rdMq => Sys2Proof.Machine.execRdMq s
  | .rdSr => Sys2Proof.Machine.execRdSr s
  | .rdMa => Sys2Proof.Machine.execRdMa s
  | .rdMb => Sys2Proof.Machine.execRdMb s
  | .rdL => Sys2Proof.Machine.execRdL s
  | .rdRun => Sys2Proof.Machine.execRdRun s
  | .rdLac => Sys2Proof.Machine.execRdLac s
  | .wrAc v => Sys2Proof.Machine.execWrAc v s
  | .wrPc v => Sys2Proof.Machine.execWrPc v s
  | .wrMq v => Sys2Proof.Machine.execWrMq v s
  | .wrSr v => Sys2Proof.Machine.execWrSr v s
  | .wrMa v => Sys2Proof.Machine.execWrMa v s
  | .wrMb v => Sys2Proof.Machine.execWrMb v s
  | .wrL v => Sys2Proof.Machine.execWrL v s
  | .wrRun v => Sys2Proof.Machine.execWrRun v s
  | .wrLac v => Sys2Proof.Machine.execWrLac v s
  | .rdIf => Sys2Proof.Machine.execRdIf s
  | .rdDf => Sys2Proof.Machine.execRdDf s
  | .rdIb => Sys2Proof.Machine.execRdIb s
  | .rdSf => Sys2Proof.Machine.execRdSf s
  | .rdUf => Sys2Proof.Machine.execRdUf s
  | .rdUb => Sys2Proof.Machine.execRdUb s
  | .rdUi => Sys2Proof.Machine.execRdUi s
  | .xaInstr a => Sys2Proof.Machine.execXaInstr a s
  | .xaData a => Sys2Proof.Machine.execXaData a s
  | .branchOrCall => Sys2Proof.Machine.execBranchOrCall s
  | .intEntry => Sys2Proof.Machine.execIntEntry s
  | .intReturn f g => Sys2Proof.Machine.execIntReturn f g s
  | .wrIf f => Sys2Proof.Machine.execWrIf f s
  | .wrDf f => Sys2Proof.Machine.execWrDf f s
  | .wrIb f => Sys2Proof.Machine.execWrIb f s
  | .wrSf v => Sys2Proof.Machine.execWrSf v s
  | .wrUf b => Sys2Proof.Machine.execWrUf b s
  | .wrUb b => Sys2Proof.Machine.execWrUb b s
  | .wrUi b => Sys2Proof.Machine.execWrUi b s
  | .intPost => Sys2Proof.Machine.execIntPost s
  | .intWithdraw => Sys2Proof.Machine.execIntWithdraw s
  | .intDisable => Sys2Proof.Machine.execIntDisable s
  | .intEnableDeferred => Sys2Proof.Machine.execIntEnableDeferred s
  | .intCommit => Sys2Proof.Machine.execIntCommit s
  | .intAcceptable => Sys2Proof.Machine.execIntAcceptable s
  | .poll => Sys2Proof.Machine.execPoll s
  | .rdIntState => Sys2Proof.Machine.execRdIntState s
  | .rdIntCount => Sys2Proof.Machine.execRdIntCount s
  | .memRd xa => Sys2Proof.Machine.execMemRd xa s
  | .memWr xa v => Sys2Proof.Machine.execMemWr xa v s
  | .devRegister u nm lbl dev => Sys2Proof.Machine.execDevRegister u nm lbl dev s
  | .devMount u path => Sys2Proof.Machine.execDevMount u path s
  | .devMountLabel lbl path => Sys2Proof.Machine.execDevMountLabel lbl path s
  | .devDispatch u c => Sys2Proof.Machine.execDevDispatch u c s
  | .devPowerUp argv => Sys2Proof.Machine.execDevPowerUp argv s
  | .devPowerDown => Sys2Proof.Machine.execDevPowerDown s
  | .devInitAll => Sys2Proof.Machine.execDevInitAll s
  | .sysConfigure ema => Sys2Proof.Machine.execSysConfigure ema s
  | .sysStart => Sys2Proof.Machine.execSysStart s
  | .sysReset => Sys2Proof.Machine.execSysReset s
  | .snapSave => Sys2Proof.Machine.execSnapSave s
  | .snapLoad img => Sys2Proof.Machine.execSnapLoad img s

end Sys2Proof.Machine
end

