-- ==== Sys2Proof/Decode.lean ====
section
/-! DEFINITION. The decoder of the command port (R88 to R91), total on every selector and every
operand, and the encoder written from the same map (R89). -/

namespace Sys2Proof

/-- Why a command is not decoded: its selector is reserved (R90). -/
inductive DecodeError where
  | reserved (opsel : Selector)
  deriving DecidableEq, Repr

/-- Every operand port at zero (or the empty string, the empty list, `off`, the image of no bytes). -/
def Ports.zero : Ports :=
  { v := 0, a := 0, f := 0, g := 0, b := 0, s := 0, xa := 0, u := 0, c := 0, nm := "", lbl := "",
    path := "", argv := [], dev := 0, ema := .off, img := [] }

/-- The command map of R89 read from the selector's side: the command a selector and its operand
ports stand for. Every selector that is not in the map is reserved (R90). -/
def decode (cmd : Command) : Except DecodeError Instr :=
  let p := cmd.ports
  match cmd.opsel.toNat with
  | 0x00 => .ok .rdAc
  | 0x01 => .ok .rdPc
  | 0x02 => .ok .rdMq
  | 0x03 => .ok .rdSr
  | 0x04 => .ok .rdMa
  | 0x05 => .ok .rdMb
  | 0x06 => .ok .rdL
  | 0x07 => .ok .rdRun
  | 0x08 => .ok .rdLac
  | 0x10 => .ok (.wrAc p.v)
  | 0x11 => .ok (.wrPc p.v)
  | 0x12 => .ok (.wrMq p.v)
  | 0x13 => .ok (.wrSr p.v)
  | 0x14 => .ok (.wrMa p.v)
  | 0x15 => .ok (.wrMb p.v)
  | 0x16 => .ok (.wrL p.v)
  | 0x17 => .ok (.wrRun p.v)
  | 0x18 => .ok (.wrLac p.v)
  | 0x20 => .ok .rdIf
  | 0x21 => .ok .rdDf
  | 0x22 => .ok .rdIb
  | 0x23 => .ok .rdSf
  | 0x24 => .ok .rdUf
  | 0x25 => .ok .rdUb
  | 0x26 => .ok .rdUi
  | 0x28 => .ok (.xaInstr p.a)
  | 0x29 => .ok (.xaData p.a)
  | 0x2A => .ok .branchOrCall
  | 0x2B => .ok .intEntry
  | 0x2C => .ok (.intReturn p.f p.g)
  | 0x30 => .ok (.wrIf p.f)
  | 0x31 => .ok (.wrDf p.f)
  | 0x32 => .ok (.wrIb p.f)
  | 0x33 => .ok (.wrSf p.s)
  | 0x34 => .ok (.wrUf p.b)
  | 0x35 => .ok (.wrUb p.b)
  | 0x36 => .ok (.wrUi p.b)
  | 0x40 => .ok .intPost
  | 0x41 => .ok .intWithdraw
  | 0x42 => .ok .intDisable
  | 0x43 => .ok .intEnableDeferred
  | 0x44 => .ok .intCommit
  | 0x45 => .ok .intAcceptable
  | 0x46 => .ok .poll
  | 0x47 => .ok .rdIntState
  | 0x48 => .ok .rdIntCount
  | 0x50 => .ok (.memRd p.xa)
  | 0x51 => .ok (.memWr p.xa p.v)
  | 0x60 => .ok (.devRegister p.u p.nm p.lbl p.dev)
  | 0x61 => .ok (.devMount p.u p.path)
  | 0x62 => .ok (.devMountLabel p.lbl p.path)
  | 0x63 => .ok (.devDispatch p.u p.c)
  | 0x64 => .ok (.devPowerUp p.argv)
  | 0x65 => .ok .devPowerDown
  | 0x66 => .ok .devInitAll
  | 0x70 => .ok (.sysConfigure p.ema)
  | 0x71 => .ok .sysStart
  | 0x72 => .ok .sysReset
  | 0x73 => .ok .snapSave
  | 0x74 => .ok (.snapLoad p.img)
  | _ => .error (.reserved cmd.opsel)

/-- The command map of R89 read from the mnemonic's side: the selector of a command, with its
operands on the ports its row names and the other ports at zero. -/
def encode : Instr → Command
  | .rdAc => ⟨0x00, Ports.zero⟩
  | .rdPc => ⟨0x01, Ports.zero⟩
  | .rdMq => ⟨0x02, Ports.zero⟩
  | .rdSr => ⟨0x03, Ports.zero⟩
  | .rdMa => ⟨0x04, Ports.zero⟩
  | .rdMb => ⟨0x05, Ports.zero⟩
  | .rdL => ⟨0x06, Ports.zero⟩
  | .rdRun => ⟨0x07, Ports.zero⟩
  | .rdLac => ⟨0x08, Ports.zero⟩
  | .wrAc v => ⟨0x10, { Ports.zero with v := v }⟩
  | .wrPc v => ⟨0x11, { Ports.zero with v := v }⟩
  | .wrMq v => ⟨0x12, { Ports.zero with v := v }⟩
  | .wrSr v => ⟨0x13, { Ports.zero with v := v }⟩
  | .wrMa v => ⟨0x14, { Ports.zero with v := v }⟩
  | .wrMb v => ⟨0x15, { Ports.zero with v := v }⟩
  | .wrL v => ⟨0x16, { Ports.zero with v := v }⟩
  | .wrRun v => ⟨0x17, { Ports.zero with v := v }⟩
  | .wrLac v => ⟨0x18, { Ports.zero with v := v }⟩
  | .rdIf => ⟨0x20, Ports.zero⟩
  | .rdDf => ⟨0x21, Ports.zero⟩
  | .rdIb => ⟨0x22, Ports.zero⟩
  | .rdSf => ⟨0x23, Ports.zero⟩
  | .rdUf => ⟨0x24, Ports.zero⟩
  | .rdUb => ⟨0x25, Ports.zero⟩
  | .rdUi => ⟨0x26, Ports.zero⟩
  | .xaInstr a => ⟨0x28, { Ports.zero with a := a }⟩
  | .xaData a => ⟨0x29, { Ports.zero with a := a }⟩
  | .branchOrCall => ⟨0x2A, Ports.zero⟩
  | .intEntry => ⟨0x2B, Ports.zero⟩
  | .intReturn f g => ⟨0x2C, { Ports.zero with f := f, g := g }⟩
  | .wrIf f => ⟨0x30, { Ports.zero with f := f }⟩
  | .wrDf f => ⟨0x31, { Ports.zero with f := f }⟩
  | .wrIb f => ⟨0x32, { Ports.zero with f := f }⟩
  | .wrSf s => ⟨0x33, { Ports.zero with s := s }⟩
  | .wrUf b => ⟨0x34, { Ports.zero with b := b }⟩
  | .wrUb b => ⟨0x35, { Ports.zero with b := b }⟩
  | .wrUi b => ⟨0x36, { Ports.zero with b := b }⟩
  | .intPost => ⟨0x40, Ports.zero⟩
  | .intWithdraw => ⟨0x41, Ports.zero⟩
  | .intDisable => ⟨0x42, Ports.zero⟩
  | .intEnableDeferred => ⟨0x43, Ports.zero⟩
  | .intCommit => ⟨0x44, Ports.zero⟩
  | .intAcceptable => ⟨0x45, Ports.zero⟩
  | .poll => ⟨0x46, Ports.zero⟩
  | .rdIntState => ⟨0x47, Ports.zero⟩
  | .rdIntCount => ⟨0x48, Ports.zero⟩
  | .memRd xa => ⟨0x50, { Ports.zero with xa := xa }⟩
  | .memWr xa v => ⟨0x51, { Ports.zero with xa := xa, v := v }⟩
  | .devRegister u nm lbl dev => ⟨0x60, { Ports.zero with u := u, nm := nm, lbl := lbl, dev := dev }⟩
  | .devMount u path => ⟨0x61, { Ports.zero with u := u, path := path }⟩
  | .devMountLabel lbl path => ⟨0x62, { Ports.zero with lbl := lbl, path := path }⟩
  | .devDispatch u c => ⟨0x63, { Ports.zero with u := u, c := c }⟩
  | .devPowerUp argv => ⟨0x64, { Ports.zero with argv := argv }⟩
  | .devPowerDown => ⟨0x65, Ports.zero⟩
  | .devInitAll => ⟨0x66, Ports.zero⟩
  | .sysConfigure ema => ⟨0x70, { Ports.zero with ema := ema }⟩
  | .sysStart => ⟨0x71, Ports.zero⟩
  | .sysReset => ⟨0x72, Ports.zero⟩
  | .snapSave => ⟨0x73, Ports.zero⟩
  | .snapLoad img => ⟨0x74, { Ports.zero with img := img }⟩

/-- The agent that R84 lets issue a command right after power-up, where there is one; else the agent
that R84 lets issue it at all. Used only to present a bare table word to the machine (log 3). -/
def usualIssuer : Instr → Agent
  | .branchOrCall | .intEntry | .intReturn _ _ | .intDisable | .intEnableDeferred | .intCommit
  | .poll | .devDispatch _ _ => .core
  | .intPost | .intWithdraw => .device
  | .rdAc | .rdPc | .rdMq | .rdSr | .rdMa | .rdMb | .rdL | .rdRun | .rdLac
  | .wrAc _ | .wrPc _ | .wrMq _ | .wrSr _ | .wrMa _ | .wrMb _ | .wrL _ | .wrRun _ | .wrLac _
  | .rdIf | .rdDf | .rdIb | .rdSf | .rdUf | .rdUb | .rdUi | .xaInstr _ | .xaData _
  | .wrIf _ | .wrDf _ | .wrIb _ | .wrSf _ | .wrUf _ | .wrUb _ | .wrUi _
  | .intAcceptable | .rdIntState | .rdIntCount | .memRd _ | .memWr _ _
  | .devRegister _ _ _ _ | .devMount _ _ | .devMountLabel _ _ | .devPowerUp _ | .devPowerDown
  | .devInitAll | .sysConfigure _ | .sysStart | .sysReset | .snapSave | .snapLoad _ => .host

/-- The selector in a table word: the word must fit both the row's bits and the seven wires of
`opsel[6:0]` (R87). -/
def tableSelector (nbits w : Nat) : Option Selector :=
  if w < 2 ^ nbits ∧ w < 128 then some (BitVec.ofNat 7 w) else none

/-- The command a table word stands for, all operand ports at zero. -/
def tableCommand (nbits w : Nat) : Option Command :=
  match tableSelector nbits w with
  | some op => some ⟨op, Ports.zero⟩
  | none => none

/-- The instruction the decoder reads from a row's bits `w` of `spec/opcode_table.json`, its operand
ports at zero; `none` where the decoder refuses. -/
def decodeTableWord (nbits w : Nat) : Option Instr :=
  match tableCommand nbits w with
  | some cmd =>
    match decode cmd with
    | .ok i => some i
    | .error _ => none
  | none => none

end Sys2Proof
end

