-- ==== Sys2Proof/Machine/Fetch.lean ====
section
/-! DEFINITION. Taking the next event from the command port (R10, R84, R89, R90). -/

namespace Sys2Proof.Machine

/-- What stands next on the command port. -/
inductive Fetched where
  /-- no event: no agent issues a command -/
  | idle
  /-- a decoded command, with the state in which it is to be performed -/
  | instr (i : Instr) (s : State)
  /-- a command with a reserved selector (R90) -/
  | reserved (opsel : Selector)
  /-- an autonomous device step (R221), with the state in which it is to be taken -/
  | device (unit : Nat) (s : State)
  deriving DecidableEq, Repr

/-- Take the next event: it leaves the port, and a command's issuer becomes the issuing agent. -/
def fetch (s : State) : Fetched :=
  match s.inbox with
  | [] => .idle
  | .deviceStep u :: rest => .device u { s with inbox := rest }
  | .command agent cmd :: rest =>
    match decode cmd with
    | .error (.reserved op) => .reserved op
    | .ok i => .instr i { s with inbox := rest, agent := agent }

/-- The event that presents a table word to the machine: its command with all operand ports at zero,
issued by the command's usual issuer (log 3). -/
def tableEvent (nbits w : Nat) : Option Event :=
  match tableCommand nbits w with
  | none => none
  | some cmd =>
    match decode cmd with
    | .ok i => some (.command (usualIssuer i) cmd)
    | .error _ => some (.command .host cmd)

/-- The state with a table word's command as the next event on the command port. A word that is no
selector cannot stand on the port, and the state is as it was. -/
def placeWord (s : State) (nbits w : Nat) : State :=
  match tableEvent nbits w with
  | none => s
  | some e => { s with inbox := e :: s.inbox }

end Sys2Proof.Machine
end

