-- ==== Sys2Proof/Machine/Step.lean ====
section
/-! DEFINITION. One step of the block: the next event of the total order (R10). -/

namespace Sys2Proof.Machine

/-- One step: the next command is performed, or the next autonomous device step is taken. While no
event stands on the command port nothing happens (log 2). -/
def step (s : State) : Host.Outcome State Fault Refusal :=
  match fetch s with
  | .idle => .next s
  | .instr i t => exec i t
  | .reserved op => .refused (.reserved op)
  | .device u t => deviceStep u t

/-- The state with a table word's command next on the command port. -/
def State.withFetchWord (s : State) (nbits w : Nat) : State := placeWord s nbits w

end Sys2Proof.Machine
end

