-- ==== Sys2Proof/Safety.lean ====
section
/-! DEFINITION. What counts as a launch, an end and a faulted state of a run (R306, R330, R262), the
power states (R278), and the invariant of the block's state. -/

namespace Sys2Proof.Machine

/-- A run has ended: the block is halted and not faulted; every command is atomic, so none is in
progress (R330). -/
abbrev State.Ended (s : State) : Prop := s.run = false ∧ s.fatal = none

/-- The power and run states (R278). -/
inductive PowerState where
  | halted
  | running
  | poweredDown
  deriving DecidableEq, Repr

/-- The power and run state (R278): powered down in `PHASE = Down`, whatever `RUN` is (log 15); else
running with `RUN = 1`, halted with `RUN = 0` in `PHASE = Active`, and none of the three before the
start. -/
def State.powerState (s : State) : Option PowerState :=
  match s.phase, s.run with
  | .down, _ => some .poweredDown
  | _, true => some .running
  | .active, false => some .halted
  | .config, false => none

/-- The state is faulted: never the end of a run (R262, R330). -/
abbrev State.Faulted (s : State) : Prop := s.fatal ≠ none

/-- A clean launch (R306). `noPost` says of a device record that its state records no posted request,
which is the device's own to define. -/
abbrev State.CleanLaunch (noPost : DeviceRecord → Bool) (s : State) : Prop :=
  s.phase = .active ∧ s.run = true ∧ s.fatal = none ∧ s.ist = .disabled ∧ s.irq = 0 ∧
  s.uf = 0 ∧ s.ui = 0 ∧ s.ib = s.ifr ∧ s.ub = s.uf ∧ ∀ r ∈ s.reg, noPost r = true

/-- The request counter is within `REQ_MAX` (R40). -/
def irqInRange (p : Params) (irq : Nat) : Bool :=
  match p.reqMax with
  | none => true
  | some m => decide (irq ≤ m)

/-- The memory-extension fields hold 0 where the unit does not exist (R30). -/
abbrev State.MeuAbsent (s : State) : Prop :=
  s.ifr = 0 ∧ s.df = 0 ∧ s.ib = 0 ∧ s.sf = 0 ∧ s.uf = 0 ∧ s.ub = 0 ∧ s.ui = 0

/-- The invariant of the block: memory is in canonical form and within MEMWORDS (R60), `SR` and `MA`
are within their widths (R24, R25), the memory-extension fields are 0 with EMA off (R30), the counter
is within its range (R40), no two records share a unit and every unit is below UNIT_COUNT (R43, R44),
and the fatal state is halted (R262). -/
abbrev State.Inv (s : State) : Prop :=
  Memory.wf s.mem = true ∧ Memory.below (memWords s.ema) s.mem = true ∧
  s.sr < 2 ^ s.params.srWidth ∧ s.ma < 2 ^ maBits s.params.maWidth ∧
  (s.ema = .off → s.MeuAbsent) ∧
  irqInRange s.params s.irq = true ∧
  (s.reg.map DeviceRecord.unit).Nodup ∧ (∀ r ∈ s.reg, r.unit < s.params.unitCount) ∧
  (s.fatal ≠ none → s.run = false)

/-- What of a record never changes (R44, R45): its unit, its two names and its handlers. -/
def DeviceRecord.identity (r : DeviceRecord) : Nat × String × String × DevId :=
  (r.unit, r.name, r.label, r.dev)

/-- A dispatch handler's commands hold one that R317 flags. -/
def flagsHandler (cmds : List Instr) : Bool :=
  cmds.any fun k => decide (k = .intEntry) || decide (k = .intDisable)

end Sys2Proof.Machine
end

