-- ==== Sys2Proof/Certificates/Slice0/Obligations.lean ====
section
/-! DEFINITION. The statements about the model, for the provers. -/

namespace Sys2Proof.Claims
open Sys2Proof.Machine

/-- The agents that may read (R84, first row). -/
abbrev MayRead (s : State) : Prop := s.agent = .core ∨ s.agent = .host

/-- The agents that may write what the core writes (R84, second row). -/
abbrev MayWrite (s : State) : Prop := s.agent = .core ∨ s.agent = .host ∧ s.run = false

/-- The host, while the block is halted (R84). -/
abbrev HostHalted (s : State) : Prop := s.agent = .host ∧ s.run = false

/-- The core, in `PHASE = Active` (R84). -/
abbrev CoreActive (s : State) : Prop := s.agent = .core ∧ s.phase = .active

/-- The state with `Ok` on the result port. -/
abbrev okState (s : State) : State := { s with result := some .ok }

/-- The state with `Ok(n)` on the result port. -/
abbrev valueState (s : State) (n : Nat) : State := { s with result := some (.okValue (.num n)) }

/-- The state with `Err(code)` on the result port. -/
abbrev errState (s : State) (code : ErrCode) : State := { s with result := some (.err code) }

/-- The fatal state a raise leaves (R262). -/
abbrev fatalState (s : State) (code : FatalCode) : State :=
  { s with fatal := some code, run := false, result := some (.fatal code) }

/-- The commands that work in the fatal state (R262): the reads, `SNAP_SAVE` and `DEV_POWER_DOWN`. -/
def worksInFatal : Instr → Bool
  | .rdAc | .rdPc | .rdMq | .rdSr | .rdMa | .rdMb | .rdL | .rdRun | .rdLac
  | .rdIf | .rdDf | .rdIb | .rdSf | .rdUf | .rdUb | .rdUi | .xaInstr _ | .xaData _
  | .intAcceptable | .rdIntState | .rdIntCount | .memRd _ | .snapSave | .devPowerDown => true
  | _ => false

/-- The commands whose own effect writes the active instruction field or the user flag (R142, R143,
R152, R156, R186, R240, R244, R302). -/
def writesActiveField : Instr → Bool
  | .branchOrCall | .intEntry | .poll | .wrIf _ | .wrUf _ | .sysConfigure _ | .sysReset
  | .snapLoad _ => true
  | _ => false

/-- A sequence of posts (`true`) and withdrawals (`false`) by a device. -/
def runCounter : List Bool → State → Outcome
  | [], s => .next s
  | b :: l, s =>
    match exec (if b then .intPost else .intWithdraw) s with
    | .next t => runCounter l t
    | .fault f => .fault f
    | .refused r => .refused r

/-- `reg'` is `reg` with each record's device state replaced by the outcome of its handler `f`, in
registration order, the draws numbered from `n` on (R214, R215, R217). -/
abbrev DrawnInOrder (f : DeviceRecord → Nat → Option DState) (n : Nat)
    (reg reg' : List DeviceRecord) : Prop :=
  reg'.length = reg.length ∧ ∀ k r, reg[k]? = some r →
    ∃ d, f r (n + k) = some d ∧ reg'[k]? = some { r with dstate := d }

/-- The handlers `f`, run over `reg` in registration order with the draws numbered from `n` on, come
to one with no outcome at the record of unit `u` (R9, R218). -/
abbrev StuckAt (f : DeviceRecord → Nat → Option DState) (n : Nat) (reg : List DeviceRecord)
    (u : Nat) : Prop :=
  ∃ pre r post, reg = pre ++ r :: post ∧ r.unit = u ∧ f r (n + pre.length) = none ∧
    ∀ k x, pre[k]? = some x → (f x (n + k)).isSome = true

/-- At no point of these posts and withdrawals, the counter being `irq` before them, is the counter
below 0 or above REQ_MAX (R40, R180, R181). -/
abbrev StaysInRange (p : Params) (irq : Nat) (cmds : List StepCmd) : Prop :=
  ∀ q, q <+: cmds → q.count .withdraw ≤ irq + q.count .post ∧
    ∀ m, p.reqMax = some m → irq + q.count .post ≤ m + q.count .withdraw

/-- What of a record only a device handler changes is left out: its device state (R44). -/
def recordApart (r : DeviceRecord) : DeviceRecord := { r with dstate := 0 }

/-- A decoded content fails a check of R247, under the parameters and the configured feature switch. -/
abbrev Malformed (p : Params) (e : Ema) (c : ImageContent) : Prop :=
  c.ema ≠ e ∨ c.words ≠ (if e = .on then 32768 else 4096) ∨
  4096 ≤ c.ac ∨ 2 ≤ c.l ∨ 4096 ≤ c.pc ∨ 4096 ≤ c.mq ∨ 2 ^ p.srWidth ≤ c.sr ∨
  (if p.maWidth = .w12 then 4096 else 32768) ≤ c.ma ∨ 4096 ≤ c.mb ∨ 2 ≤ c.run ∨
  (∃ x ∈ c.cells, 4096 ≤ x.2 ∨ c.words ≤ x.1) ∨
  (∃ m, c.meu = some m ∧ (8 ≤ m.ifr ∨ 8 ≤ m.df ∨ 8 ≤ m.ib ∨ 128 ≤ m.sf ∨ 2 ≤ m.uf ∨ 2 ≤ m.ub ∨
    2 ≤ m.ui)) ∨
  (c.ie = 1 ∧ c.idef = 1) ∨ 2 ≤ c.ie ∨ 2 ≤ c.idef ∨ ∃ m, p.reqMax = some m ∧ m < c.irq

/-- The rights table of R84: which agent may issue a command, in which phase and run state. -/
def mayIssue (i : Instr) (s : State) : Prop :=
  match i with
  | .rdAc | .rdPc | .rdMq | .rdSr | .rdMa | .rdMb | .rdL | .rdRun | .rdLac
  | .rdIf | .rdDf | .rdIb | .rdSf | .rdUf | .rdUb | .rdUi | .xaInstr _ | .xaData _
  | .intAcceptable | .rdIntState | .rdIntCount | .memRd _ => s.agent = .core ∨ s.agent = .host
  | .wrAc _ | .wrPc _ | .wrMq _ | .wrMa _ | .wrMb _ | .wrL _ | .wrLac _
  | .wrDf _ | .wrIb _ | .wrUb _ | .wrUi _ | .memWr _ _ =>
    s.agent = .core ∨ s.agent = .host ∧ s.run = false
  | .wrRun v => s.agent = .core ∨ s.agent = .host ∧ (s.run = false ∨ v = 0)
  | .wrIf _ | .wrUf _ | .wrSf _ => s.agent = .host ∧ s.run = false
  | .wrSr _ => s.agent = .host
  | .branchOrCall | .intEntry | .intReturn _ _ | .intDisable | .intEnableDeferred => s.agent = .core
  | .intCommit | .poll | .devDispatch _ _ => s.agent = .core ∧ s.phase = .active
  | .intPost | .intWithdraw => s.agent = .device
  | .devRegister _ _ _ _ | .sysConfigure _ | .sysStart | .devPowerUp _ =>
    s.agent = .host ∧ s.phase = .config
  | .devMount _ _ | .devMountLabel _ _ => s.agent = .host ∧ s.phase ≠ .down
  | .devPowerDown | .snapSave => s.agent = .host
  | .snapLoad _ => s.agent = .host ∧ s.run = false
  | .sysReset | .devInitAll => (s.agent = .core ∨ s.agent = .host) ∧ s.phase = .active

/-- The word an image's memory holds at an address (R245). -/
def cellAt : List (Nat × Nat) → Nat → Nat
  | [], _ => 0
  | (k, w) :: rest, a => if k = a then w else cellAt rest a

end Sys2Proof.Claims

open Sys2Proof Sys2Proof.Machine Sys2Proof.Claims

/-! ### Register File -/

/-- R100, R103 to R111: a read returns its register and changes nothing but the result port, in every
state, the fatal one too (R262). -/
def Obligations.RegisterReadsAnswerTheirRegister : Prop :=
  ∀ s : State, MayRead s →
    exec .rdAc s = .next (valueState s s.ac.toNat) ∧
    exec .rdPc s = .next (valueState s s.pc.toNat) ∧
    exec .rdMq s = .next (valueState s s.mq.toNat) ∧
    exec .rdSr s = .next (valueState s s.sr) ∧
    exec .rdMa s = .next (valueState s s.ma) ∧
    exec .rdMb s = .next (valueState s s.mb.toNat) ∧
    exec .rdL s = .next (valueState s s.l.toNat) ∧
    exec .rdRun s = .next (valueState s (if s.run then 1 else 0)) ∧
    exec .rdLac s = .next (valueState s (s.l.toNat * 4096 + s.ac.toNat))

/-- R101, R112 to R114, R117: a write to a 12-bit register stores the value modulo 4096, for every
integer, and changes nothing else. -/
def Obligations.RegisterWritesStoreModulo4096 : Prop :=
  ∀ (s : State) (v : Int), s.fatal = none → MayWrite s →
    ∃ w : Word, (w.toNat : Int) = v % 4096 ∧
      exec (.wrAc v) s = .next { s with ac := w, result := some .ok } ∧
      exec (.wrPc v) s = .next { s with pc := w, result := some .ok } ∧
      exec (.wrMq v) s = .next { s with mq := w, result := some .ok } ∧
      exec (.wrMb v) s = .next { s with mb := w, result := some .ok }

/-- R115: the host writes the switch register at any time, modulo 2^SR_WIDTH, and no other agent
writes it. -/
def Obligations.SwitchRegisterIsTheHosts : Prop :=
  ∀ (s : State) (v : Int), s.fatal = none →
    (s.agent = .host →
      ∃ n : Nat, (n : Int) = v % 2 ^ s.params.srWidth ∧
        exec (.wrSr v) s = .next { s with sr := n, result := some .ok }) ∧
    (s.agent ≠ .host → exec (.wrSr v) s = .refused .permission)

/-- R116: `WR_MA` stores the value modulo 2^MA_WIDTH, MA_WIDTH being 12 or 15. -/
def Obligations.AddressRegisterStoresModuloItsWidth : Prop :=
  ∀ (s : State) (v : Int), s.fatal = none → MayWrite s →
    ∃ n : Nat, (n : Int) = v % (if s.params.maWidth = .w12 then 4096 else 32768) ∧
      exec (.wrMa v) s = .next { s with ma := n, result := some .ok }

/-- R102, R118: `WR_L` stores 1 for every non-zero integer and 0 for 0, and changes nothing else. -/
def Obligations.LinkWriteCoerces : Prop :=
  ∀ (s : State) (v : Int), s.fatal = none → MayWrite s →
    ∃ b : Bit, b.toNat = (if v = 0 then 0 else 1) ∧
      exec (.wrL v) s = .next { s with l := b, result := some .ok }

/-- R119: the core at any time, the host while halted or to halt, sets the run flag to the coerced
value; setting it to 1 outside `PHASE = Active` is refused, whoever asks. -/
def Obligations.RunFlagIsSetOnlyWhileActive : Prop :=
  ∀ (s : State) (v : Int), s.fatal = none →
    ((s.agent = .core ∨ s.agent = .host ∧ (s.run = false ∨ v = 0)) → (v = 0 ∨ s.phase = .active) →
      exec (.wrRun v) s = .next { s with run := decide (v ≠ 0), result := some .ok }) ∧
    (v ≠ 0 → s.phase ≠ .active → exec (.wrRun v) s = .refused .permission)

/-- R120: `WR_LAC` stores the value modulo 8192, bit 12 in the link and bits 11:0 in the
accumulator. -/
def Obligations.LinkAndAccumulatorWriteTogether : Prop :=
  ∀ (s : State) (v : Int), s.fatal = none → MayWrite s →
    ∃ (b : Bit) (w : Word), ((b.toNat * 4096 + w.toNat : Nat) : Int) = v % 8192 ∧
      exec (.wrLac v) s = .next { s with l := b, ac := w, result := some .ok }

/-- R121: read after write, for the six registers and the 13-bit view; a write to one register
changes no other, except that `WR_LAC` writes both the link and the accumulator. -/
def Obligations.ReadAfterWriteReturnsTheStoredValue : Prop :=
  ∀ (s : State) (v : Int), s.fatal = none → MayWrite s →
    (∃ t n, exec (.wrAc v) s = .next t ∧ t = { s with ac := t.ac, result := some .ok } ∧
      exec .rdAc t = .next (valueState t n) ∧ (n : Int) = v % 4096) ∧
    (∃ t n, exec (.wrPc v) s = .next t ∧ t = { s with pc := t.pc, result := some .ok } ∧
      exec .rdPc t = .next (valueState t n) ∧ (n : Int) = v % 4096) ∧
    (∃ t n, exec (.wrMq v) s = .next t ∧ t = { s with mq := t.mq, result := some .ok } ∧
      exec .rdMq t = .next (valueState t n) ∧ (n : Int) = v % 4096) ∧
    (∃ t n, exec (.wrMb v) s = .next t ∧ t = { s with mb := t.mb, result := some .ok } ∧
      exec .rdMb t = .next (valueState t n) ∧ (n : Int) = v % 4096) ∧
    (∃ t, exec (.wrL v) s = .next t ∧ t = { s with l := t.l, result := some .ok } ∧
      exec .rdL t = .next (valueState t (if v = 0 then 0 else 1))) ∧
    (v = 0 ∨ s.phase = .active →
      ∃ t, exec (.wrRun v) s = .next t ∧ t = { s with run := t.run, result := some .ok } ∧
        exec .rdRun t = .next (valueState t (if v = 0 then 0 else 1))) ∧
    (∃ t n, exec (.wrLac v) s = .next t ∧ t = { s with l := t.l, ac := t.ac, result := some .ok } ∧
      exec .rdLac t = .next (valueState t n) ∧ (n : Int) = v % 8192)

/-! ### Memory -/

/-- R64: `MEM_RD` returns the word and changes nothing; an address outside memory is refused. -/
def Obligations.MemoryReadAnswersTheWord : Prop :=
  ∀ (s : State) (xa : Nat), MayRead s →
    (xa < (if s.ema = .on then 32768 else 4096) →
      exec (.memRd xa) s = .next (valueState s (Memory.read s.mem xa).toNat)) ∧
    (¬ xa < (if s.ema = .on then 32768 else 4096) → exec (.memRd xa) s = .refused .addrRange)

/-- R65, R72: `MEM_WR` stores the value modulo 4096 at its address, every other word reads as before,
and nothing else changes; an address outside memory is refused. -/
def Obligations.MemoryWriteStoresOneWord : Prop :=
  ∀ (s : State) (xa : Nat) (v : Int), Memory.wf s.mem = true → s.fatal = none → MayWrite s →
    (xa < (if s.ema = .on then 32768 else 4096) →
      ∃ m : Memory, exec (.memWr xa v) s = .next { s with mem := m, result := some .ok } ∧
        ((Memory.read m xa).toNat : Int) = v % 4096 ∧
        ∀ b, b ≠ xa → Memory.read m b = Memory.read s.mem b) ∧
    (¬ xa < (if s.ema = .on then 32768 else 4096) → exec (.memWr xa v) s = .refused .addrRange)

/-- R64, R140, R141: an address that `XA_INSTR` or `XA_DATA` forms is always inside memory, so the
read of it completes. -/
def Obligations.ExtendedAddressesAreInsideMemory : Prop :=
  ∀ (s : State) (a : Nat), MayRead s → a < 4096 →
    ∃ n m w x, exec (.xaInstr a) s = .next (valueState s n) ∧
      exec (.memRd n) s = .next (valueState s w) ∧
      exec (.xaData a) s = .next (valueState s m) ∧
      exec (.memRd m) s = .next (valueState s x)

/-! ### Memory Extension Unit -/

/-- R145 to R151, R160: the field reads return the active field, buffer or flag; 0 with EMA off. -/
def Obligations.FieldReadsAnswerTheirField : Prop :=
  ∀ s : State, MayRead s →
    (s.ema = .on →
      exec .rdIf s = .next (valueState s s.ifr.toNat) ∧ exec .rdDf s = .next (valueState s s.df.toNat) ∧
      exec .rdIb s = .next (valueState s s.ib.toNat) ∧ exec .rdSf s = .next (valueState s s.sf.toNat) ∧
      exec .rdUf s = .next (valueState s s.uf.toNat) ∧ exec .rdUb s = .next (valueState s s.ub.toNat) ∧
      exec .rdUi s = .next (valueState s s.ui.toNat)) ∧
    (s.ema = .off →
      exec .rdIf s = .next (valueState s 0) ∧ exec .rdDf s = .next (valueState s 0) ∧
      exec .rdIb s = .next (valueState s 0) ∧ exec .rdSf s = .next (valueState s 0) ∧
      exec .rdUf s = .next (valueState s 0) ∧ exec .rdUb s = .next (valueState s 0) ∧
      exec .rdUi s = .next (valueState s 0))

/-- R140, R141: the extended address puts the active instruction field, or the data field, above the
12-bit address; with EMA off it is the address; an address above 4095 is refused. -/
def Obligations.ExtendedAddressPutsTheFieldAbove : Prop :=
  ∀ (s : State) (a : Nat), MayRead s →
    (a < 4096 → s.ema = .on →
      exec (.xaInstr a) s = .next (valueState s (s.ifr.toNat * 4096 + a)) ∧
      exec (.xaData a) s = .next (valueState s (s.df.toNat * 4096 + a))) ∧
    (a < 4096 → s.ema = .off →
      exec (.xaInstr a) s = .next (valueState s a) ∧ exec (.xaData a) s = .next (valueState s a)) ∧
    (4096 ≤ a → exec (.xaInstr a) s = .refused .operand ∧ exec (.xaData a) s = .refused .operand)

/-- R142, R162, R159: `BRANCH_OR_CALL` promotes the buffers and clears the user-interrupt flag, and
changes nothing else; with EMA off it changes nothing. -/
def Obligations.BranchPromotesTheBuffers : Prop :=
  ∀ s : State, s.fatal = none → s.agent = .core →
    (s.ema = .on →
      exec .branchOrCall s =
        .next { s with ifr := s.ib, uf := s.ub, ui := 0, result := some .ok }) ∧
    (s.ema = .off → exec .branchOrCall s = .next (okState s))

/-- R143, R81, R159: `INT_ENTRY` packs the user flag, the instruction field and the data field into
the save-field register, clears fields, buffers and user mode and disables interrupts, and changes
nothing else; with EMA off it changes nothing. -/
def Obligations.InterruptEntrySavesAndClears : Prop :=
  ∀ s : State, s.fatal = none → s.agent = .core →
    (s.ema = .on →
      ∃ w : SaveField, w.toNat = s.uf.toNat * 64 + s.ifr.toNat * 8 + s.df.toNat ∧
        exec .intEntry s = .next { s with sf := w, ifr := 0, df := 0, uf := 0, ib := 0, ub := 0,
                                          ist := .disabled, result := some .ok }) ∧
    (s.ema = .off → exec .intEntry s = .next (okState s))

/-- R144, R159: `INT_RETURN f, g` restores the data field and the instruction-field buffer from its
operands and the user buffer from bit 6 of the save-field register, and changes nothing else. -/
def Obligations.InterruptReturnRestores : Prop :=
  ∀ (s : State) (f g : Nat), s.fatal = none → s.agent = .core → f < 8 → g < 8 →
    (s.ema = .on →
      ∃ (d i : Field) (u : Bit), d.toNat = f ∧ i.toNat = g ∧ u.toNat = s.sf.toNat / 64 ∧
        exec (.intReturn f g) s = .next { s with df := d, ib := i, ub := u, result := some .ok }) ∧
    (s.ema = .off → exec (.intReturn f g) s = .next (okState s))

/-- R153, R154, R157, R158, R159: the core's field writes store their operand in one field; with EMA
off they have no effect. -/
def Obligations.CoreFieldWritesStoreOneField : Prop :=
  ∀ (s : State) (f b : Nat), s.fatal = none → MayWrite s → f < 8 → b < 2 →
    (s.ema = .on →
      ∃ (x : Field) (y : Bit), x.toNat = f ∧ y.toNat = b ∧
        exec (.wrDf f) s = .next { s with df := x, result := some .ok } ∧
        exec (.wrIb f) s = .next { s with ib := x, result := some .ok } ∧
        exec (.wrUb b) s = .next { s with ub := y, result := some .ok } ∧
        exec (.wrUi b) s = .next { s with ui := y, result := some .ok }) ∧
    (s.ema = .off →
      exec (.wrDf f) s = .next (okState s) ∧ exec (.wrIb f) s = .next (okState s) ∧
      exec (.wrUb b) s = .next (okState s) ∧ exec (.wrUi b) s = .next (okState s))

/-- R152, R155, R156, R159, R84: the host's field writes, while halted, store their operand in one
field; the core, and the host while running, are refused. -/
def Obligations.HostFieldWritesStoreOneField : Prop :=
  ∀ (s : State) (f v b : Nat), s.fatal = none → f < 8 → v < 128 → b < 2 →
    (HostHalted s → s.ema = .on →
      ∃ (x : Field) (z : SaveField) (y : Bit), x.toNat = f ∧ z.toNat = v ∧ y.toNat = b ∧
        exec (.wrIf f) s = .next { s with ifr := x, result := some .ok } ∧
        exec (.wrSf v) s = .next { s with sf := z, result := some .ok } ∧
        exec (.wrUf b) s = .next { s with uf := y, result := some .ok }) ∧
    (HostHalted s → s.ema = .off →
      exec (.wrIf f) s = .next (okState s) ∧ exec (.wrSf v) s = .next (okState s) ∧
      exec (.wrUf b) s = .next (okState s)) ∧
    (¬ HostHalted s →
      exec (.wrIf f) s = .refused .permission ∧ exec (.wrSf v) s = .refused .permission ∧
      exec (.wrUf b) s = .refused .permission)

/-- R159: with EMA off an extended address is the address, and the operations and the seven field
writes change no state and return Ok. -/
def Obligations.ExtendedMemoryAbsentIsIdentity : Prop :=
  ∀ (s : State) (a f g v b : Nat), s.fatal = none → s.ema = .off →
    a < 4096 → f < 8 → g < 8 → v < 128 → b < 2 →
    (MayRead s →
      exec (.xaInstr a) s = .next (valueState s a) ∧ exec (.xaData a) s = .next (valueState s a)) ∧
    (s.agent = .core →
      exec .branchOrCall s = .next (okState s) ∧ exec .intEntry s = .next (okState s) ∧
      exec (.intReturn f g) s = .next (okState s)) ∧
    (MayWrite s →
      exec (.wrDf f) s = .next (okState s) ∧ exec (.wrIb f) s = .next (okState s) ∧
      exec (.wrUb b) s = .next (okState s) ∧ exec (.wrUi b) s = .next (okState s)) ∧
    (HostHalted s →
      exec (.wrIf f) s = .next (okState s) ∧ exec (.wrSf v) s = .next (okState s) ∧
      exec (.wrUf b) s = .next (okState s))

/-- R87: an operand outside its range is refused, a negative one too, which the port can carry by the
model's choice (log 24). -/
def Obligations.OperandsOutOfRangeAreRefused : Prop :=
  ∀ (s : State) (x y : Int) (u : Nat), s.fatal = none →
    (MayRead s → x < 0 ∨ 4096 ≤ x →
      exec (.xaInstr x) s = .refused .operand ∧ exec (.xaData x) s = .refused .operand) ∧
    (MayRead s → x < 0 ∨ (if s.ema = .on then 32768 else 4096) ≤ x →
      exec (.memRd x) s = .refused .addrRange) ∧
    (MayWrite s → x < 0 ∨ (if s.ema = .on then 32768 else 4096) ≤ x →
      exec (.memWr x y) s = .refused .addrRange) ∧
    (MayWrite s → x < 0 ∨ 8 ≤ x →
      exec (.wrDf x) s = .refused .operand ∧ exec (.wrIb x) s = .refused .operand) ∧
    (MayWrite s → x < 0 ∨ 2 ≤ x →
      exec (.wrUb x) s = .refused .operand ∧ exec (.wrUi x) s = .refused .operand) ∧
    (HostHalted s → x < 0 ∨ 8 ≤ x → exec (.wrIf x) s = .refused .operand) ∧
    (HostHalted s → x < 0 ∨ 128 ≤ x → exec (.wrSf x) s = .refused .operand) ∧
    (HostHalted s → x < 0 ∨ 2 ≤ x → exec (.wrUf x) s = .refused .operand) ∧
    (s.agent = .core → (x < 0 ∨ 8 ≤ x ∨ y < 0 ∨ 8 ≤ y) →
      exec (.intReturn x y) s = .refused .operand) ∧
    (CoreActive s → y < 0 ∨ 2 ^ s.params.opcWidth ≤ y →
      exec (.devDispatch u y) s = .refused .operand)

/-- R161: interrupt entry, then later, the save-field register being as the entry left it, the
pseudo-command `INT_RETURN_SF` (R93: read the save-field register, return with its bits 2:0 and 5:3):
it restores the data field, and the instruction field and user flag in their buffers; a later
`BRANCH_OR_CALL` makes them active. -/
def Obligations.EntryThenReturnRestoresTheContext : Prop :=
  ∀ s : State, s.fatal = none → s.agent = .core → s.ema = .on →
    ∃ s1, exec .intEntry s = .next s1 ∧
      ∀ s2, s2.fatal = none → s2.agent = .core → s2.ema = .on → s2.sf = s1.sf →
        ∃ n s3, exec .rdSf s2 = .next (valueState s2 n) ∧
          exec (.intReturn (n % 8) (n / 8 % 8)) (valueState s2 n) = .next s3 ∧
          s3.df = s.df ∧ s3.ib = s.ifr ∧ s3.ub = s.uf ∧
          ∀ s4, s4.fatal = none → s4.agent = .core → s4.ema = .on → s4.ib = s3.ib → s4.ub = s3.ub →
            ∃ s5, exec .branchOrCall s4 = .next s5 ∧ s5.ifr = s.ifr ∧ s5.uf = s.uf

/-- R31, R38, R142, R143: no command changes the active instruction field or the user flag but
`BRANCH_OR_CALL`, `INT_ENTRY`, an accepting `POLL`, the host's writes, an image load, a reset and a
configuration; a dispatch whose handler issues none of these does not, and no autonomous device step
does. -/
def Obligations.ActiveFieldChangesOnlyAtControlTransfers : Prop :=
  (∀ (i : Instr) (s t : State), writesActiveField i = false → (∀ u c, i ≠ .devDispatch u c) →
    exec i s = .next t → t.ifr = s.ifr ∧ t.uf = s.uf) ∧
  (∀ (u c : Nat) (s t : State),
    (∀ r d cmds, findUnit s.reg u = some r → dispatchOutcome s r c s.draws = some (d, cmds) →
      ∀ k ∈ cmds, writesActiveField k = false) →
    exec (.devDispatch u c) s = .next t → t.ifr = s.ifr ∧ t.uf = s.uf) ∧
  (∀ (u : Nat) (s t : State), deviceStep u s = .next t → t.ifr = s.ifr ∧ t.uf = s.uf)

/-! ### Interrupt Controller -/

/-- R180, R181: `INT_POST` adds one to the counter and `INT_WITHDRAW` takes one from it, and nothing
else changes; a post at a finite REQ_MAX raises `F_REQ_OVERFLOW`, a withdrawal at 0
`F_REQ_UNDERFLOW`. -/
def Obligations.PostsAndWithdrawalsCount : Prop :=
  ∀ s : State, s.fatal = none → s.agent = .device →
    (s.params.reqMax ≠ some s.irq →
      exec .intPost s = .next { s with irq := s.irq + 1, result := some .ok }) ∧
    (s.params.reqMax = some s.irq → exec .intPost s = .next (fatalState s .reqOverflow)) ∧
    (0 < s.irq → exec .intWithdraw s = .next { s with irq := s.irq - 1, result := some .ok }) ∧
    (s.irq = 0 → exec .intWithdraw s = .next (fatalState s .reqUnderflow))

/-- R191: after any sequence of posts and withdrawals in which no prefix withdraws more than it
posted, the counter is posts minus withdrawals; the first withdrawal that exceeds the posts raises
`F_REQ_UNDERFLOW`. Where REQ_MAX is finite the posts do not exceed it. -/
def Obligations.CounterEqualsPostsMinusWithdrawals : Prop :=
  ∀ (l : List Bool) (s : State), s.fatal = none → s.agent = .device → s.irq = 0 →
    (∀ m, s.params.reqMax = some m → l.count true ≤ m) →
    (∀ p, p <+: l → p.count false ≤ p.count true) →
    ∃ t, runCounter l s = .next t ∧ t.fatal = none ∧ t.irq + l.count false = l.count true ∧
      (l.count false = l.count true →
        exec .intWithdraw t = .next (fatalState t .reqUnderflow))

/-- R182, R184: `INT_DISABLE` leaves the controller Disabled from every state; `INT_COMMIT` leaves it
Enabled from DeferredEnable and as it was from the other two. Nothing else changes. -/
def Obligations.DisableAndCommitMoveTheController : Prop :=
  ∀ s : State, s.fatal = none → s.agent = .core →
    exec .intDisable s = .next { s with ist := .disabled, result := some .ok } ∧
    (s.phase = .active → s.ist = .deferredEnable →
      exec .intCommit s = .next { s with ist := .enabled, result := some .ok }) ∧
    (s.phase = .active → s.ist ≠ .deferredEnable → exec .intCommit s = .next (okState s))

/-- R183: from Disabled and DeferredEnable `INT_ENABLE_DEFERRED` leaves DeferredEnable; from Enabled
the parameter ION_WHEN_ENABLED decides, and under `Any` the new state is one of the two. The draw
counter is the model's own. -/
def Obligations.EnableDeferredMovesTheController : Prop :=
  ∀ s : State, s.fatal = none → s.agent = .core →
    (s.ist ≠ .enabled →
      exec .intEnableDeferred s = .next { s with ist := .deferredEnable, result := some .ok }) ∧
    (s.ist = .enabled → s.params.ion = .keep → exec .intEnableDeferred s = .next (okState s)) ∧
    (s.ist = .enabled → s.params.ion = .defer →
      exec .intEnableDeferred s = .next { s with ist := .deferredEnable, result := some .ok }) ∧
    (s.ist = .enabled → s.params.ion = .any →
      ∃ i n, (i = .enabled ∨ i = .deferredEnable) ∧
        exec .intEnableDeferred s = .next { s with ist := i, draws := n, result := some .ok })

/-- R185, R187, R188, R83: `INT_ACCEPTABLE` answers 1 exactly when the controller is Enabled and the
counter above 0; `RD_INT_STATE` answers 0, 1 or 2; `RD_INT_COUNT` answers the counter. -/
def Obligations.ControllerReadsAnswer : Prop :=
  ∀ s : State, MayRead s →
    (s.ist = .enabled → 0 < s.irq → exec .intAcceptable s = .next (valueState s 1)) ∧
    (s.ist ≠ .enabled ∨ s.irq = 0 → exec .intAcceptable s = .next (valueState s 0)) ∧
    (s.ist = .disabled → exec .rdIntState s = .next (valueState s 0)) ∧
    (s.ist = .deferredEnable → exec .rdIntState s = .next (valueState s 1)) ∧
    (s.ist = .enabled → exec .rdIntState s = .next (valueState s 2)) ∧
    exec .rdIntCount s = .next (valueState s s.irq)

/-- R186, R185, R184: where no interrupt is acceptable `POLL` answers NotTaken, commits a deferred
enable and changes nothing else. -/
def Obligations.PollWithoutAcceptanceCommits : Prop :=
  ∀ s : State, s.fatal = none → CoreActive s →
    (s.ist = .deferredEnable →
      exec .poll s = .next { s with ist := .enabled, result := some (.okValue .notTaken) }) ∧
    (s.ist = .disabled ∨ s.ist = .enabled ∧ s.irq = 0 →
      exec .poll s = .next { s with result := some (.okValue .notTaken) })

/-- R186, R143, R266, R269: an accepted interrupt saves the context into the save-field register (EMA
on), leaves field 0, executive mode and Disabled, keeps the counter, and under `PDP8_JMS0` stores the
program counter in word 0 and goes on at 1; under `CORE` program counter and memory stay. Every other
word of memory reads as before and nothing else changes. -/
def Obligations.PollTakesAnAcceptableInterrupt : Prop :=
  ∀ s : State, Memory.wf s.mem = true → s.fatal = none → CoreActive s → s.ist = .enabled →
    0 < s.irq →
    ∃ t, exec .poll s = .next t ∧
      t = { s with sf := t.sf, ifr := t.ifr, df := t.df, ib := t.ib, uf := t.uf, ub := t.ub,
                   ist := .disabled, mem := t.mem, pc := t.pc, result := some (.okValue .taken) } ∧
      (s.ema = .on → t.sf.toNat = s.uf.toNat * 64 + s.ifr.toNat * 8 + s.df.toNat ∧
        t.ifr = 0 ∧ t.df = 0 ∧ t.ib = 0 ∧ t.uf = 0 ∧ t.ub = 0) ∧
      (s.ema = .off → t.sf = s.sf ∧ t.ifr = s.ifr ∧ t.df = s.df ∧ t.ib = s.ib ∧ t.uf = s.uf ∧
        t.ub = s.ub) ∧
      (s.params.vector = .pdp8Jms0 → t.pc = 1 ∧
        ∀ a, Memory.read t.mem a = if a = 0 then s.pc else Memory.read s.mem a) ∧
      (s.params.vector = .core → t.pc = s.pc ∧ t.mem = s.mem)

/-- R189: after `INT_ENABLE_DEFERRED` from Disabled, the first `POLL`, in any state whose controller is
as the enable left it, answers NotTaken whatever the counter is and leaves Enabled; a later `POLL` in a
state that is still Enabled with a request pending answers Taken. -/
def Obligations.DeferredEnableWaitsOneInstruction : Prop :=
  ∀ s : State, s.fatal = none → CoreActive s → s.ist = .disabled →
    ∃ s1, exec .intEnableDeferred s = .next s1 ∧
      ∀ s2, s2.fatal = none → CoreActive s2 → s2.ist = s1.ist →
        ∃ s3, exec .poll s2 = .next s3 ∧ s3.result = some (.okValue .notTaken) ∧ s3.ist = .enabled ∧
          ∀ s4, s4.fatal = none → CoreActive s4 → s4.ist = s3.ist → 0 < s4.irq →
            ∃ s5, exec .poll s4 = .next s5 ∧ s5.result = some (.okValue .taken)

/-- R316: an instruction that enables from Disabled, followed by one that disables, admits no
interrupt, whatever the counter is at the two boundaries. -/
def Obligations.EnableThenDisableAdmitsNoInterrupt : Prop :=
  ∀ (s : State) (j k : Nat), s.fatal = none → CoreActive s → s.ist = .disabled →
    ∃ s1 s2 s3 s4, exec .intEnableDeferred s = .next s1 ∧
      exec .poll { s1 with irq := j } = .next s2 ∧ s2.result = some (.okValue .notTaken) ∧
      exec .intDisable s2 = .next s3 ∧
      exec .poll { s3 with irq := k } = .next s4 ∧ s4.result = some (.okValue .notTaken) ∧
      s4.ist = .disabled ∧ s4.pc = s.pc ∧ s4.mem = s.mem

/-! ### Device registry -/

/-- R211: `DEV_REGISTER` appends a record with nothing mounted and the device's initial state; a unit
out of range or already registered gives the configuration error and leaves the registry as it is. -/
def Obligations.RegisterAppendsARecord : Prop :=
  ∀ (s : State) (u : Nat) (nm lbl : String) (dev : DevId), s.fatal = none → s.agent = .host →
    s.phase = .config →
    (s.params.unitCount ≤ u → exec (.devRegister u nm lbl dev) s = .next (errState s .badUnit)) ∧
    (u < s.params.unitCount → (∃ r ∈ s.reg, r.unit = u) →
      exec (.devRegister u nm lbl dev) s = .next (errState s .dupUnit)) ∧
    (u < s.params.unitCount → (∀ r ∈ s.reg, r.unit ≠ u) →
      exec (.devRegister u nm lbl dev) s = .next { s with
        reg := s.reg ++ [⟨u, nm, lbl, dev, none, initialState s.params dev⟩], result := some .ok })

/-- R220: once a unit is registered, a second registration of it returns `E_DUP_UNIT` and leaves the
registry unchanged, and the record a dispatch to the unit reaches is the first one's. -/
def Obligations.FirstRegistrationWins : Prop :=
  ∀ (s t : State) (u : Nat) (nm lbl nm' lbl' : String) (a b : DevId),
    (∀ r ∈ s.reg, r.unit ≠ u) → exec (.devRegister u nm lbl a) s = .next t →
    t.result = some .ok →
    exec (.devRegister u nm' lbl' b) t = .next (errState t .dupUnit) ∧
    ∃ r, findUnit t.reg u = some r ∧ r.dev = a

/-- R212: `DEV_MOUNT` of an unknown unit returns `E_UNKNOWN_UNIT`; on a known unit the outcome drawn
from its mount handler attaches the path and the new device state to its record, or returns
`E_OPEN_FAILED` and leaves the registry as it is; a handler with no outcome leaves the block stuck. -/
def Obligations.MountAttachesThePath : Prop :=
  ∀ (s : State) (u : Nat) (path : String), s.fatal = none → s.agent = .host → s.phase ≠ .down →
    (findUnit s.reg u = none → exec (.devMount u path) s = .next (errState s .unknownUnit)) ∧
    (∀ r d, findUnit s.reg u = some r → mountOutcome s.params r path s.draws = some (.mounted d) →
      exec (.devMount u path) s = .next { s with
        reg := s.reg.map (fun x => if x.unit = u then { x with dstate := d, mounted := some path } else x),
        draws := s.draws + 1, result := some .ok }) ∧
    (∀ r, findUnit s.reg u = some r → mountOutcome s.params r path s.draws = some .openFailed →
      exec (.devMount u path) s =
        .next { s with draws := s.draws + 1, result := some (.err .openFailed) }) ∧
    (∀ r, findUnit s.reg u = some r → mountOutcome s.params r path s.draws = none →
      exec (.devMount u path) s = .fault (.noOutcome .mount u))

/-- R213: `DEV_MOUNT_LABEL` is `DEV_MOUNT` of the unit of the first record with the label, which
completes where the record's mount handler has an outcome; with no such record it returns
`E_UNKNOWN_LABEL`. -/
def Obligations.MountByLabelMountsTheFirst : Prop :=
  ∀ (s : State) (lbl path : String), (s.reg.map DeviceRecord.unit).Nodup → s.fatal = none →
    s.agent = .host → s.phase ≠ .down →
    ((∀ r ∈ s.reg, r.label ≠ lbl) →
      exec (.devMountLabel lbl path) s = .next (errState s .unknownLabel)) ∧
    (∀ pre r post, s.reg = pre ++ r :: post → r.label = lbl → (∀ x ∈ pre, x.label ≠ lbl) →
      exec (.devMountLabel lbl path) s = exec (.devMount r.unit path) s ∧
      ((mountOutcome s.params r path s.draws).isSome = true →
        ∃ t, exec (.devMountLabel lbl path) s = .next t))

/-- R214, R215, R217: where every device's handler has an outcome at every draw, power-up (once, in
Config), power-down (also in the fatal state) and init run every record's handler in registration
order, each record's device state becoming the outcome; power-up sets PWR, and power-down halts the
block and leaves `PHASE = Down`. A second power-up is refused. Where the handlers come to a record
whose handler has no outcome the block is stuck (R9, R218). -/
def Obligations.DeviceHandlersRunOverTheRegistry : Prop :=
  ∀ (s : State) (argv : List String),
    (s.fatal = none → s.agent = .host → s.phase = .config → s.pwr = false →
      (∀ r ∈ s.reg, ∀ n, (powerOutcome s.params .up argv r n).isSome = true) →
      ∃ reg n, DrawnInOrder (powerOutcome s.params .up argv) s.draws s.reg reg ∧
        exec (.devPowerUp argv) s =
          .next { s with reg := reg, draws := n, pwr := true, result := some .ok }) ∧
    (s.fatal = none → s.pwr = true → exec (.devPowerUp argv) s = .refused .permission) ∧
    (s.agent = .host → (∀ r ∈ s.reg, ∀ n, (powerOutcome s.params .down [] r n).isSome = true) →
      ∃ reg n, DrawnInOrder (powerOutcome s.params .down []) s.draws s.reg reg ∧
        exec .devPowerDown s = .next { s with reg := reg, draws := n, run := false, phase := .down,
                                              result := some .ok }) ∧
    (s.fatal = none → (s.agent = .core ∨ s.agent = .host) → s.phase = .active →
      (∀ r ∈ s.reg, ∀ n, (initOutcome s.params r n).isSome = true) →
      ∃ reg n, DrawnInOrder (initOutcome s.params) s.draws s.reg reg ∧
        exec .devInitAll s = .next { s with reg := reg, draws := n, result := some .ok }) ∧
    (∀ u, s.fatal = none → s.agent = .host → s.phase = .config → s.pwr = false →
      StuckAt (powerOutcome s.params .up argv) s.draws s.reg u →
      exec (.devPowerUp argv) s = .fault (.noOutcome .power u)) ∧
    (∀ u, s.agent = .host → StuckAt (powerOutcome s.params .down []) s.draws s.reg u →
      exec .devPowerDown s = .fault (.noOutcome .power u)) ∧
    (∀ u, s.fatal = none → (s.agent = .core ∨ s.agent = .host) → s.phase = .active →
      StuckAt (initOutcome s.params) s.draws s.reg u →
      exec .devInitAll s = .fault (.noOutcome .init u))

/-- R216: a dispatch to a unit with no record, out of range or not, raises
`F_DISPATCH_UNREGISTERED` and changes nothing else. To a record it performs the drawn commands in order
and then gives the device its new state; if one raised a fatal error the dispatch stops there, whatever
commands are left: the fatal state holds and the device's state is as the commands left it; if one is
refused the whole dispatch is refused; a relation with no outcome leaves the block stuck. -/
def Obligations.DispatchPerformsTheHandlersCommands : Prop :=
  ∀ (s : State) (u c : Nat), s.fatal = none → CoreActive s → c < 2 ^ s.params.opcWidth →
    ((∀ r ∈ s.reg, r.unit ≠ u) →
      exec (.devDispatch u c) s = .next (fatalState s .dispatchUnregistered)) ∧
    (∀ r d cmds t, findUnit s.reg u = some r → dispatchOutcome s r c s.draws = some (d, cmds) →
      runHandler cmds { s with draws := s.draws + 1 } = .next t → t.fatal = none →
      exec (.devDispatch u c) s = .next { t with
        reg := t.reg.map (fun x => if x.unit = u then { x with dstate := d } else x),
        result := some .ok }) ∧
    (∀ r d cmds t, findUnit s.reg u = some r → dispatchOutcome s r c s.draws = some (d, cmds) →
      runHandler cmds { s with draws := s.draws + 1 } = .next t → t.fatal ≠ none →
      exec (.devDispatch u c) s = .next t) ∧
    (∀ r d pre k post t t', findUnit s.reg u = some r →
      dispatchOutcome s r c s.draws = some (d, pre ++ k :: post) →
      runHandler pre { s with draws := s.draws + 1 } = .next t → t.fatal = none →
      handlerCommand k t = .next t' → t'.fatal ≠ none →
      exec (.devDispatch u c) s = .next t') ∧
    (∀ r d pre k post t e, findUnit s.reg u = some r →
      dispatchOutcome s r c s.draws = some (d, pre ++ k :: post) →
      runHandler pre { s with draws := s.draws + 1 } = .next t → t.fatal = none →
      handlerCommand k t = .refused e →
      exec (.devDispatch u c) s = .refused .permission) ∧
    (∀ r, findUnit s.reg u = some r → dispatchOutcome s r c s.draws = none →
      exec (.devDispatch u c) s = .fault (.noOutcome .dispatch u))

/-- R84, R216: what a command of a dispatch handler does: `DEV_DISPATCH`, `POLL` and `INT_COMMIT` are
refused; a post or withdrawal is what a device's own is; any other is the core's command (an entry or
a disable is flagged, R317). That a command which is itself stuck, a reset or an initialisation whose
init handler has no outcome, leaves the whole dispatch stuck is inferred (log 22). -/
def Obligations.HandlerCommandsHaveTheCoresRights : Prop :=
  ∀ (k : Instr) (s : State), s.fatal = none → CoreActive s →
    (∀ u (c : Nat) r d pre post t f, c < 2 ^ s.params.opcWidth → findUnit s.reg u = some r →
      dispatchOutcome s r c s.draws = some (d, pre ++ k :: post) →
      runHandler pre { s with draws := s.draws + 1 } = .next t → t.fatal = none →
      handlerCommand k t = .fault f → exec (.devDispatch u c) s = .fault f) ∧
    (k = .poll ∨ k = .intCommit ∨ (∃ u c, k = .devDispatch u c) →
      handlerCommand k s = .refused .permission) ∧
    (k = .intPost ∨ k = .intWithdraw →
      ∃ t, exec k { s with agent := .device } = .next t ∧
        handlerCommand k s = .next { t with agent := .core }) ∧
    (k = .intEntry ∨ k = .intDisable → handlerCommand k s = exec k { s with flagged := true }) ∧
    (k ≠ .poll → k ≠ .intCommit → (∀ u c, k ≠ .devDispatch u c) → k ≠ .intPost →
      k ≠ .intWithdraw → k ≠ .intEntry → k ≠ .intDisable → handlerCommand k s = exec k s)

/-- R216's example: a handler that writes the accumulator and withdraws its request. With a request
pending both happen; with none the withdrawal raises `F_REQ_UNDERFLOW`, the accumulator keeps the
write and the device's state is unchanged. -/
def Obligations.DispatchWritesAndWithdraws : Prop :=
  ∀ (s : State) (u c : Nat) (r : DeviceRecord) (d : DState), s.fatal = none → CoreActive s →
    c < 2 ^ s.params.opcWidth → findUnit s.reg u = some r →
    dispatchOutcome s r c s.draws = some (d, [.wrAc 0x41, .intWithdraw]) →
    (0 < s.irq → exec (.devDispatch u c) s = .next { s with
      ac := 0x41, irq := s.irq - 1, draws := s.draws + 1, result := some .ok,
      reg := s.reg.map (fun x => if x.unit = u then { x with dstate := d } else x) }) ∧
    (s.irq = 0 → exec (.devDispatch u c) s = .next { s with
      ac := 0x41, draws := s.draws + 1, fatal := some .reqUnderflow, run := false,
      result := some (.fatal .reqUnderflow) })

/-- R221, R218, R262: an autonomous device step in `PHASE = Active` performs the drawn posts and
withdrawals and gives its device the new state: the counter becomes what it was with the posts added
and the withdrawals taken away, and nothing else changes but that device's state and the model's draw
counter. At the first command that underflows or overflows the counter the fatal state is entered, the
counter being what the commands before it left and the device's state staying. A step relation with no
outcome leaves the block stuck. Outside `PHASE = Active`, in the fatal state, or for a unit with no
record, none is taken, which is inferred (log 11). What becomes of the result port, and of the device's
state in a fatal error, is the model's choice (log 14). -/
def Obligations.DeviceStepChangesOnlyTheCounter : Prop :=
  ∀ (u : Nat) (s : State),
    (s.phase ≠ .active ∨ s.fatal ≠ none ∨ (∀ r ∈ s.reg, r.unit ≠ u) → deviceStep u s = .next s) ∧
    (∀ r, s.phase = .active → s.fatal = none → findUnit s.reg u = some r →
      stepOutcome s.params r s.draws = none → deviceStep u s = .fault (.noOutcome .step u)) ∧
    (∀ r d cmds, s.phase = .active → s.fatal = none → findUnit s.reg u = some r →
      stepOutcome s.params r s.draws = some (d, cmds) → StaysInRange s.params s.irq cmds →
      ∃ n, n + cmds.count .withdraw = s.irq + cmds.count .post ∧
        deviceStep u s = .next { s with
          irq := n, draws := s.draws + 1,
          reg := s.reg.map (fun x => if x.unit = u then { x with dstate := d } else x) }) ∧
    (∀ r d pre k post n, s.phase = .active → s.fatal = none → findUnit s.reg u = some r →
      stepOutcome s.params r s.draws = some (d, pre ++ k :: post) →
      StaysInRange s.params s.irq pre → n + pre.count .withdraw = s.irq + pre.count .post →
      (k = .withdraw → n = 0 → deviceStep u s =
        .next (fatalState { s with irq := n, draws := s.draws + 1 } .reqUnderflow)) ∧
      (k = .post → s.params.reqMax = some n → deviceStep u s =
        .next (fatalState { s with irq := n, draws := s.draws + 1 } .reqOverflow)))

/-! ### Host interface, reset and the fatal state -/

/-- R240: `SYS_CONFIGURE` sets the switch, clears memory (under `Zero`) and the memory-extension
fields, and changes nothing else; under `Arbitrary` every word is a draw and memory is still within
its size. -/
def Obligations.ConfigureSetsTheFeature : Prop :=
  ∀ (s : State) (e : Ema), s.fatal = none → s.agent = .host → s.phase = .config →
    ∃ mem n, exec (.sysConfigure e) s = .next { s with
        ema := e, mem := mem, ifr := 0, df := 0, ib := 0, sf := 0, uf := 0, ub := 0, ui := 0,
        draws := n, result := some .ok } ∧
      (s.params.powerUp = .zero → ∀ a, Memory.read mem a = 0) ∧
      Memory.wf mem = true ∧ Memory.below (if e = .on then 32768 else 4096) mem = true

/-- R241: `SYS_START` moves to `PHASE = Active` and changes nothing else; outside Config it, a
configuration, a registration and a power-up are refused. -/
def Obligations.StartMovesToActive : Prop :=
  ∀ s : State, s.fatal = none →
    (s.agent = .host → s.phase = .config →
      exec .sysStart s = .next { s with phase := .active, result := some .ok }) ∧
    (s.phase ≠ .config → exec .sysStart s = .refused .permission ∧
      (∀ e, exec (.sysConfigure e) s = .refused .permission) ∧
      (∀ u nm lbl dev, exec (.devRegister u nm lbl dev) s = .refused .permission) ∧
      ∀ argv, exec (.devPowerUp argv) s = .refused .permission)

/-- R302: `SYS_RESET` clears the working registers, the memory-extension unit, the controller and the
counter, runs every init handler in registration order, and leaves everything else unchanged: PC, SR,
RUN, memory, the registry but for the device states, PHASE, PWR, FATAL and EMA. An init handler with no
outcome leaves the block stuck. In the fatal state it returns `Fatal(FATAL)`. -/
def Obligations.SystemResetClears : Prop :=
  ∀ s : State,
    (s.fatal = none → (s.agent = .core ∨ s.agent = .host) → s.phase = .active →
      (∀ r ∈ s.reg, ∀ n, (initOutcome s.params r n).isSome = true) →
      ∃ reg n, DrawnInOrder (initOutcome s.params) s.draws s.reg reg ∧
        exec .sysReset s = .next { s with
          ac := 0, l := 0, mq := 0, ma := 0, mb := 0, ifr := 0, df := 0, ib := 0, sf := 0, uf := 0,
          ub := 0, ui := 0, ist := .disabled, irq := 0, reg := reg, draws := n, result := some .ok }) ∧
    (∀ u, s.fatal = none → (s.agent = .core ∨ s.agent = .host) → s.phase = .active →
      StuckAt (initOutcome s.params) s.draws s.reg u →
      exec .sysReset s = .fault (.noOutcome .init u)) ∧
    (∀ c, s.fatal = some c → exec .sysReset s = .next { s with result := some (.fatal c) })

/-- R243, R245, R246: `SNAP_SAVE` answers the image, in the open format, of a content that holds the
state's elements, and changes nothing, also in the fatal state. From every state that meets the
invariant the image decodes to that content. That a content lists the non-zero words of memory is the
model's choice (log 9). -/
def Obligations.SaveAnswersAnImageOfTheState : Prop :=
  ∀ s : State, s.agent = .host →
    ∃ c, exec .snapSave s =
        .next { s with result := some (.okValue (.image (encodeImage s.params c))) } ∧
      (s.Inv → decodeImage s.params (encodeImage s.params c) = some c) ∧
      c.ema = s.ema ∧ c.words = (if s.ema = .on then 32768 else 4096) ∧
      (∀ a, cellAt c.cells a = (Memory.read s.mem a).toNat) ∧
      c.ac = s.ac.toNat ∧ c.l = s.l.toNat ∧ c.pc = s.pc.toNat ∧ c.mq = s.mq.toNat ∧ c.sr = s.sr ∧
      c.ma = s.ma ∧ c.mb = s.mb.toNat ∧ c.run = s.run.toNat ∧ c.ie = s.ist.ie.toNat ∧
      c.idef = s.ist.idef.toNat ∧ c.irq = s.irq ∧
      (s.ema = .off → c.meu = none) ∧
      (s.ema = .on → c.meu = some ⟨s.ifr.toNat, s.df.toNat, s.ib.toNat, s.sf.toNat, s.uf.toNat,
        s.ub.toNat, s.ui.toNat⟩)

/-- R244, R245: `SNAP_LOAD` of an image that decodes to a content that passes the checks of R247 gives
every element of R245 the content's value, in every phase, and changes nothing else. That it does so in
`PHASE = Down` too, `RUN = 1` included, beside R278's "nothing wakes it", is the model's reading, which
is inferred (log 15). The form of a content is the model's choice (log 9). -/
def Obligations.LoadRestoresEveryElement : Prop :=
  ∀ (s : State) (img : Image) (c : ImageContent), s.fatal = none → HostHalted s →
    decodeImage s.params img = some c → contentValid s.params s.ema c = true →
    ∃ t, exec (.snapLoad img) s = .next t ∧
      t = { s with mem := t.mem, ac := t.ac, l := t.l, pc := t.pc, mq := t.mq, sr := c.sr, ma := c.ma,
                   mb := t.mb, run := t.run, ifr := t.ifr, df := t.df, ib := t.ib, sf := t.sf,
                   uf := t.uf, ub := t.ub, ui := t.ui, ist := t.ist, irq := c.irq,
                   result := some .ok } ∧
      (∀ a, (Memory.read t.mem a).toNat = cellAt c.cells a) ∧
      t.ac.toNat = c.ac ∧ t.l.toNat = c.l ∧ t.pc.toNat = c.pc ∧ t.mq.toNat = c.mq ∧
      t.mb.toNat = c.mb ∧ t.run.toNat = c.run ∧ t.ist.ie.toNat = c.ie ∧ t.ist.idef.toNat = c.idef ∧
      (∀ m, c.meu = some m → t.ifr.toNat = m.ifr ∧ t.df.toNat = m.df ∧ t.ib.toNat = m.ib ∧
        t.sf.toNat = m.sf ∧ t.uf.toNat = m.uf ∧ t.ub.toNat = m.ub ∧ t.ui.toNat = m.ui) ∧
      (c.meu = none → t.ifr = s.ifr ∧ t.df = s.df ∧ t.ib = s.ib ∧ t.sf = s.sf ∧ t.uf = s.uf ∧
        t.ub = s.ub ∧ t.ui = s.ui)

/-- R244, R247: an image that does not decode, or whose content fails a check, returns
`E_IMAGE_MALFORMED` and changes nothing. The form of a content, numbers of any size and a list of
memory's words, is the model's choice (log 9): that `IE` and `IDEF` are below 2 (R39) and that every
listed address is inside the image's own memory are checks on that form. -/
def Obligations.MalformedImageIsRejected : Prop :=
  ∀ (s : State) (img : Image), s.fatal = none → HostHalted s →
    (∀ c, decodeImage s.params img = some c → Malformed s.params s.ema c) →
    exec (.snapLoad img) s = .next (errState s .imageMalformed)

/-- R249: saving a halted state and loading the image later, whatever was changed in between under the
same configuration, gives back every element of R245; everything else is the loading state's. In the
fatal state, where the load changes nothing, loading right after saving leaves every element too. -/
def Obligations.SaveThenLoadRestoresTheState : Prop :=
  ∀ (x w : State), x.Inv → x.agent = .host → x.run = false →
    ∃ img, exec .snapSave x = .next { x with result := some (.okValue (.image img)) } ∧
      (w.params = x.params → w.ema = x.ema → w.fatal = none → HostHalted w → w.Inv →
        exec (.snapLoad img) w = .next { w with
          mem := x.mem, ac := x.ac, l := x.l, pc := x.pc, mq := x.mq, sr := x.sr, ma := x.ma,
          mb := x.mb, run := x.run, ifr := x.ifr, df := x.df, ib := x.ib, sf := x.sf, uf := x.uf,
          ub := x.ub, ui := x.ui, ist := x.ist, irq := x.irq, result := some .ok }) ∧
      (∀ c, x.fatal = some c →
        exec (.snapLoad img) { x with result := some (.okValue (.image img)) } =
          .next { x with result := some (.fatal c) })

/-- R262: in the fatal state every command but the reads, `SNAP_SAVE` and `DEV_POWER_DOWN` returns
`Fatal(FATAL)` and changes nothing, whoever issues it and whatever its operands. -/
def Obligations.FatalStateAnswersFatal : Prop :=
  ∀ (i : Instr) (s : State) (c : FatalCode), s.fatal = some c → worksInFatal i = false →
    exec i s = .next { s with result := some (.fatal c) }

/-- R262, R48: once `FATAL` is not none no step changes it, no device step is taken, and nothing of
the block changes but the device states, `RUN` and the phase, and those by `DEV_POWER_DOWN` alone; a
halted block stays halted. The result port, the issuing agent, the command port and the draw counter
are the model's own. -/
def Obligations.FatalStateIsSticky : Prop :=
  ∀ (s t : State) (c : FatalCode), s.fatal = some c → step s = .next t →
    t.fatal = some c ∧
    t = { s with reg := t.reg, phase := t.phase, run := t.run, draws := t.draws,
                 result := t.result, agent := t.agent, inbox := t.inbox } ∧
    t.reg.map recordApart = s.reg.map recordApart ∧
    ((∀ a cmd rest, s.inbox = .command a cmd :: rest → decode cmd ≠ .ok .devPowerDown) →
      t.reg = s.reg ∧ t.phase = s.phase ∧ t.run = s.run ∧ t.draws = s.draws) ∧
    (∀ u rest, s.inbox = .deviceStep u :: rest → t = { s with inbox := rest }) ∧
    (s.run = false → t.run = false) ∧ (t.phase = s.phase ∨ t.phase = .down)

/-- R300: the state after power-up. -/
def Obligations.PowerUpState : Prop :=
  State.reset.ac = 0 ∧ State.reset.l = 0 ∧ State.reset.pc = 0 ∧ State.reset.mq = 0 ∧
  State.reset.sr = 0 ∧ State.reset.ma = 0 ∧ State.reset.mb = 0 ∧ State.reset.run = false ∧
  State.reset.MeuAbsent ∧ State.reset.ist = .disabled ∧ State.reset.irq = 0 ∧
  State.reset.ema = .off ∧ (∀ a, Memory.read State.reset.mem a = 0) ∧ State.reset.reg = [] ∧
  State.reset.phase = .config ∧ State.reset.pwr = false ∧ State.reset.fatal = none

/-! ### Rights -/

/-- R84, R85: outside the fatal state a command that its agent may not issue now is refused with
`Permission`; and a command is refused so only then, or where a rule of its own says so: a start outside
`PHASE = Active` (R119), a second power-up (R214), a dispatch whose handler issues a refused command
(R216). -/
def Obligations.RightsDecideRefusal : Prop :=
  ∀ (i : Instr) (s : State), s.fatal = none →
    (¬ mayIssue i s → exec i s = .refused .permission) ∧
    (mayIssue i s → exec i s = .refused .permission →
      (∃ v, i = .wrRun v ∧ v ≠ 0 ∧ s.phase ≠ .active) ∨
      (∃ argv, i = .devPowerUp argv ∧ s.pwr = true) ∨
      ∃ u c, i = .devDispatch u c)

/-! ### Encoding and the step -/

/-- R89: the decoder gives back every instruction from its encoding, and the encoding of a decoded
instruction has the command's selector and decodes to the same instruction. -/
def Obligations.DecodeInvertsEncode : Prop :=
  (∀ i : Instr, decode (encode i) = .ok i) ∧
  (∀ (c : Command) (i : Instr), decode c = .ok i →
    (encode i).opsel = c.opsel ∧ decode { c with ports := (encode i).ports } = .ok i)

/-- R90: the 68 selectors of the reserved list are refused, whatever the operand ports carry, and by
the step too. -/
def Obligations.ReservedSelectorsAreRefused : Prop :=
  ∀ (op : Selector) (p : Ports) (s : State) (a : Agent) (rest : List Event),
    (0x09 ≤ op.toNat ∧ op.toNat ≤ 0x0F ∨ 0x19 ≤ op.toNat ∧ op.toNat ≤ 0x1F ∨ op.toNat = 0x27 ∨
      0x2D ≤ op.toNat ∧ op.toNat ≤ 0x2F ∨ 0x37 ≤ op.toNat ∧ op.toNat ≤ 0x3F ∨
      0x49 ≤ op.toNat ∧ op.toNat ≤ 0x4F ∨ 0x52 ≤ op.toNat ∧ op.toNat ≤ 0x5F ∨
      0x67 ≤ op.toNat ∧ op.toNat ≤ 0x6F ∨ 0x75 ≤ op.toNat) →
    decode ⟨op, p⟩ = .error (.reserved op) ∧
    (s.inbox = .command a ⟨op, p⟩ :: rest → step s = .refused (.reserved op))

/-- R89: words of the command map, written out, decode to the commands they stand for. -/
def Obligations.TableWordsDecode : Prop :=
  decodeTableWord 8 0b0000000 = some .rdAc ∧ decodeTableWord 8 0b0010000 = some (.wrAc 0) ∧
  decodeTableWord 8 0b0101010 = some .branchOrCall ∧ decodeTableWord 8 0b0110010 = some (.wrIb 0) ∧
  decodeTableWord 8 0b1000110 = some .poll ∧ decodeTableWord 8 0b1010001 = some (.memWr 0 0) ∧
  decodeTableWord 8 0b1100011 = some (.devDispatch 0 0) ∧
  decodeTableWord 8 0b1110010 = some .sysReset ∧ decodeTableWord 8 0b0001001 = none

/-- R10, R84: a step on a command performs the decoded instruction, the event being taken off the
port and its issuer being the issuing agent; a step on a device event takes the device's step; with
no event nothing happens. -/
def Obligations.StepPerformsTheNextEvent : Prop :=
  ∀ (s : State) (rest : List Event),
    (∀ a cmd i, s.inbox = .command a cmd :: rest → decode cmd = .ok i →
      step s = exec i { s with inbox := rest, agent := a }) ∧
    (∀ u, s.inbox = .deviceStep u :: rest →
      step s = deviceStep u { s with inbox := rest }) ∧
    (s.inbox = [] → step s = .next s)

/-! ### Invariants of every step -/

/-- The invariant of the block holds after power-up. -/
def Obligations.InvariantHoldsAtPowerUp : Prop := State.reset.Inv

/-- R60, R24, R25, R30, R40, R43, R262: every step keeps the invariant of the block: memory canonical
and within its size, SR and MA within their widths, the memory-extension fields 0 with EMA off, the
counter within its range, units distinct and in range, the fatal state halted. -/
def Obligations.StepKeepsTheInvariant : Prop :=
  ∀ s t : State, s.Inv → step s = .next t → t.Inv

/-- R5, R46: no step changes the parameters, and once the block has left `PHASE = Config` no step
changes EMA. -/
def Obligations.FeatureIsImmutableAfterConfig : Prop :=
  ∀ s t : State, step s = .next t →
    t.params = s.params ∧ (s.phase ≠ .config → t.ema = s.ema)

/-- R47, R51, R278: no step goes back to Config or leaves Down, so that nothing wakes a powered-down block,
and PWR never returns to 0. In Down no event sets RUN but the load of an image that has it set, which is
inferred (log 15). -/
def Obligations.LifecycleNeverGoesBack : Prop :=
  ∀ s t : State, step s = .next t →
    (t.phase = .config → s.phase = .config) ∧ (s.phase = .down → t.phase = .down) ∧
    (s.powerState = some .poweredDown → t.powerState = some .poweredDown) ∧
    (s.phase = .down → s.run = false →
      (∀ a cmd rest img, s.inbox = .command a cmd :: rest → decode cmd ≠ .ok (.snapLoad img)) →
      t.run = false) ∧
    (s.pwr = true → t.pwr = true)

/-- R45, R303: a record persists: after any step the units, names, labels and handlers of the registry
are those it had, in order, with at most one record appended, and none outside Config. -/
def Obligations.RecordsPersist : Prop :=
  ∀ s t : State, step s = .next t →
    (∃ new, new.length ≤ 1 ∧
      t.reg.map DeviceRecord.identity = s.reg.map DeviceRecord.identity ++ new) ∧
    (s.phase ≠ .config → t.reg.map DeviceRecord.identity = s.reg.map DeviceRecord.identity)
end

