-- ==== Sys2Proof/Laws/Flags.lean ====
section
/-! SUPPORT. What the layouts, the store functions and the acceptance predicate say in numbers (R80 to
R83, R101, R102, R185), and the operand ranges (R87). -/

namespace Sys2Proof.Machine

@[simp] theorem saveUser_packSave (u : Bit) (i d : Field) : saveUser (packSave u i d) = u := by
  revert u i d; decide

@[simp] theorem saveInstrField_packSave (u : Bit) (i d : Field) :
    saveInstrField (packSave u i d) = i := by
  revert u i d; decide

@[simp] theorem saveDataField_packSave (u : Bit) (i d : Field) :
    saveDataField (packSave u i d) = d := by
  revert u i d; decide

theorem packSave_toNat (u : Bit) (i d : Field) :
    (packSave u i d).toNat = u.toNat <<< 6 ||| i.toNat <<< 3 ||| d.toNat := by
  revert u i d; decide

@[simp] theorem packLac_split (t : BitVec 13) : packLac (lacLink t) (lacWord t) = t := by
  apply BitVec.eq_of_getLsbD_eq
  intro i hi
  simp only [packLac, lacLink, lacWord, BitVec.getLsbD_append, BitVec.getLsbD_extractLsb']
  by_cases h : i < 12
  · simp [h]
  · have : i = 12 := by omega
    subst this; simp

theorem packLac_toNat (l : Bit) (ac : Word) : (packLac l ac).toNat = l.toNat <<< 12 ||| ac.toNat := by
  exact BitVec.toNat_append l ac

theorem mask12_toNat (v : Int) : ((mask12 v).toNat : Int) = v % 4096 := by
  have h : (0 : Int) ≤ v % 4096 := Int.emod_nonneg v (by decide)
  simp [mask12, BitVec.toNat_ofInt, h]

theorem mask13_toNat (v : Int) : ((mask13 v).toNat : Int) = v % 8192 := by
  have h : (0 : Int) ≤ v % 8192 := Int.emod_nonneg v (by decide)
  simp [mask13, BitVec.toNat_ofInt, h]

theorem maskTo_lt (w : Nat) (v : Int) : maskTo w v < 2 ^ w := by
  have hp : (0 : Int) < ((2 ^ w : Nat) : Int) := by exact_mod_cast Nat.two_pow_pos w
  have h1 := Int.emod_nonneg v (Int.ne_of_gt hp)
  have h2 := Int.emod_lt_of_pos v hp
  unfold maskTo
  omega

theorem maskTo_toInt (w : Nat) (v : Int) : ((maskTo w v : Nat) : Int) = v % ((2 ^ w : Nat) : Int) := by
  have hp : (0 : Int) < ((2 ^ w : Nat) : Int) := by exact_mod_cast Nat.two_pow_pos w
  exact Int.toNat_of_nonneg (Int.emod_nonneg v (Int.ne_of_gt hp))

theorem acceptable_iff (s : State) : acceptable s = true ↔ s.ist = .enabled ∧ 0 < s.irq := by
  simp [acceptable]

theorem istOfBits_bits (i : Ist) : istOfBits i.ie.toNat i.idef.toNat = some i := by
  cases i <;> rfl

/-- An extended address formed from a 12-bit address is inside memory (R64, R140, R141). -/
theorem extendedAddr_lt (e : Ema) (f : Field) {a : Nat} (ha : a < 4096) :
    extendedAddr e f a < memWords e := by
  cases e with
  | off => exact ha
  | on =>
    have hf := f.isLt
    have h1 : f.toNat <<< 12 < 2 ^ 15 := by rw [Nat.shiftLeft_eq]; omega
    exact Nat.or_lt_two_pow h1 (by omega)

/-- With EMA on the field and the address stand side by side (R82). -/
theorem extendedAddr_on (f : Field) {a : Nat} (ha : a < 4096) :
    extendedAddr .on f a = f.toNat * 4096 + a := by
  show f.toNat <<< 12 ||| a = _
  rw [← Nat.shiftLeft_add_eq_or_of_lt (by omega : a < 2 ^ 12), Nat.shiftLeft_eq]

/-- The link-and-accumulator view as a number (R80). -/
theorem packLac_toNat_add (l : Bit) (a : Word) : (packLac l a).toNat = l.toNat * 4096 + a.toNat := by
  rw [packLac_toNat, ← Nat.shiftLeft_add_eq_or_of_lt (by omega : a.toNat < 2 ^ 12), Nat.shiftLeft_eq]

/-- The packed save field as a number (R81). -/
theorem packSave_toNat_add (u : Bit) (i d : Field) :
    (packSave u i d).toNat = u.toNat * 64 + i.toNat * 8 + d.toNat := by
  revert u i d; decide

/-- The saved user flag as a number (R81). -/
theorem saveUser_toNat (x : SaveField) : (saveUser x).toNat = x.toNat / 64 := by
  revert x; decide

/-- The two bits a controller state is read from (R39). -/
theorem bits_of_istOfBits {a b : Nat} {i : Ist} (h : istOfBits a b = some i) :
    i.ie.toNat = a ∧ i.idef.toNat = b := by
  unfold istOfBits at h
  split at h <;> first
    | (injection h with h; subst h; exact ⟨rfl, rfl⟩)
    | cases h

/-- Two bits that encode no controller state (R39, R247). -/
theorem istOfBits_none {a b : Nat} (h : (a = 1 ∧ b = 1) ∨ 2 ≤ a ∨ 2 ≤ b) : istOfBits a b = none := by
  unfold istOfBits
  split <;> first
    | rfl
    | (exfalso; omega)

/-- The size of memory, written out (R5). -/
theorem memWords_eq (e : Ema) : memWords e = if e = .on then 32768 else 4096 := by cases e <;> rfl

theorem memWords_pos (e : Ema) : 0 < memWords e := by cases e <;> decide

/-! ### Operand ranges (R87) -/

theorem within_iff {n : Nat} {x : Int} : within n x = true ↔ 0 ≤ x ∧ x < n := by simp [within]

theorem within_natCast (n k : Nat) : within n (k : Int) = decide (k < n) := by
  simp [within]

theorem within_toNat {n : Nat} {x : Int} (h : within n x = true) : x.toNat < n := by
  have := within_iff.1 h
  omega

theorem isAddr12_iff {a : Int} : isAddr12 a = true ↔ 0 ≤ a ∧ a < 4096 := within_iff

theorem isField_iff {f : Int} : isField f = true ↔ 0 ≤ f ∧ f < 8 := within_iff

theorem isBit_iff {b : Int} : isBit b = true ↔ 0 ≤ b ∧ b < 2 := within_iff

theorem isSave_iff {v : Int} : isSave v = true ↔ 0 ≤ v ∧ v < 128 := within_iff

theorem isOpCode_iff {p : Params} {c : Int} :
    isOpCode p c = true ↔ 0 ≤ c ∧ c < (2 ^ p.opcWidth : Nat) := within_iff

theorem inMemory_iff {e : Ema} {xa : Int} : inMemory e xa = true ↔ 0 ≤ xa ∧ xa < memWords e :=
  within_iff

theorem inMemory_toNat {e : Ema} {xa : Int} (h : inMemory e xa = true) : xa.toNat < memWords e :=
  within_toNat h

end Sys2Proof.Machine
end

