-- ==== Sys2Proof/Laws/Memory.lean ====
section
/-! SUPPORT. What the memory operations do: a read after a write, and the canonical form (R60, R65,
R72). -/

namespace Sys2Proof.Machine

@[simp] theorem Memory.read_nil (a : Nat) : Memory.read [] a = 0 := rfl

theorem Memory.read_cons (k : Nat) (w : Word) (m : Memory) (a : Nat) :
    Memory.read ((k, w) :: m) a = if k = a then w else Memory.read m a := rfl

/-- Listing a word changes what its address reads as, provided the rest does not list it. -/
theorem Memory.read_cell (a : Nat) (w : Word) (m : Memory) (b : Nat) (h : Memory.read m a = 0) :
    Memory.read (Memory.cell a w m) b = if a = b then w else Memory.read m b := by
  unfold Memory.cell
  split
  · next hw =>
    split
    · next hab => rw [← hab, h, hw]; rfl
    · rfl
  · exact Memory.read_cons a w m b

/-- Below its lowest listed address a canonical memory reads 0. -/
theorem Memory.read_below {lo : Nat} {m : Memory} (h : Memory.wfFrom lo m = true) {a : Nat}
    (ha : a < lo) : Memory.read m a = 0 := by
  induction m generalizing lo with
  | nil => rfl
  | cons c m ih =>
    obtain ⟨k, w⟩ := c
    simp only [Memory.wfFrom, Bool.and_eq_true, decide_eq_true_eq] at h
    rw [Memory.read_cons, if_neg (by omega)]
    exact ih h.2 (by omega)

/-- A canonical memory is canonical from any lower address on. -/
theorem Memory.wfFrom_mono {lo lo' : Nat} {m : Memory} (h : Memory.wfFrom lo m = true)
    (hl : lo' ≤ lo) : Memory.wfFrom lo' m = true := by
  cases m with
  | nil => rfl
  | cons c m =>
    obtain ⟨k, w⟩ := c
    simp only [Memory.wfFrom, Bool.and_eq_true, decide_eq_true_eq] at h ⊢
    exact ⟨⟨by omega, h.1.2⟩, h.2⟩

/-- Listing a word below a canonical memory gives a canonical memory. -/
theorem Memory.cell_wfFrom {lo a : Nat} {w : Word} {m : Memory} (hlo : lo ≤ a)
    (h : Memory.wfFrom (a + 1) m = true) : Memory.wfFrom lo (Memory.cell a w m) = true := by
  unfold Memory.cell
  split
  · exact Memory.wfFrom_mono h (by omega)
  · next hw =>
    simp only [Memory.wfFrom, Bool.and_eq_true, decide_eq_true_eq]
    exact ⟨⟨hlo, hw⟩, h⟩

theorem Memory.write_wfFrom {lo a : Nat} {w : Word} {m : Memory} (hlo : lo ≤ a)
    (h : Memory.wfFrom lo m = true) : Memory.wfFrom lo (Memory.write m a w) = true := by
  induction m generalizing lo with
  | nil => exact Memory.cell_wfFrom hlo rfl
  | cons c m ih =>
    obtain ⟨k, x⟩ := c
    have h' := h
    simp only [Memory.wfFrom, Bool.and_eq_true, decide_eq_true_eq] at h
    unfold Memory.write
    split
    · next hak =>
      refine Memory.cell_wfFrom hlo ?_
      simp only [Memory.wfFrom, Bool.and_eq_true, decide_eq_true_eq]
      exact ⟨⟨by omega, h.1.2⟩, h.2⟩
    · split
      · next hak => subst hak; exact Memory.cell_wfFrom hlo h.2
      · simp only [Memory.wfFrom, Bool.and_eq_true, decide_eq_true_eq]
        exact ⟨h.1, ih (by omega) h.2⟩

/-- A write keeps the canonical form. -/
theorem Memory.write_wf {m : Memory} (a : Nat) (w : Word) (h : Memory.wf m = true) :
    Memory.wf (Memory.write m a w) = true :=
  Memory.write_wfFrom (Nat.zero_le a) h

theorem Memory.below_cons (n k : Nat) (w : Word) (m : Memory) :
    Memory.below n ((k, w) :: m) = (decide (k < n) && Memory.below n m) := rfl

theorem Memory.cell_below {n a : Nat} {w : Word} {m : Memory} (ha : a < n)
    (h : Memory.below n m = true) : Memory.below n (Memory.cell a w m) = true := by
  unfold Memory.cell
  split
  · exact h
  · simp [Memory.below_cons, ha, h]

/-- A write inside memory keeps the listed addresses inside memory. -/
theorem Memory.write_below {n : Nat} {m : Memory} {a : Nat} (w : Word) (ha : a < n)
    (h : Memory.below n m = true) : Memory.below n (Memory.write m a w) = true := by
  induction m with
  | nil => exact Memory.cell_below ha h
  | cons c m ih =>
    obtain ⟨k, x⟩ := c
    have h' := h
    simp only [Memory.below_cons, Bool.and_eq_true, decide_eq_true_eq] at h
    unfold Memory.write
    split
    · exact Memory.cell_below ha h'
    · split
      · exact Memory.cell_below ha h.2
      · simp [Memory.below_cons, h.1, ih h.2]

/-- A read after a write, in a canonical memory: the written word at its address, every other word as
before. -/
theorem Memory.read_write {m : Memory} (h : Memory.wf m = true) (a : Nat) (w : Word) (b : Nat) :
    Memory.read (Memory.write m a w) b = if a = b then w else Memory.read m b := by
  suffices ∀ lo, Memory.wfFrom lo m = true →
      Memory.read (Memory.write m a w) b = if a = b then w else Memory.read m b from this 0 h
  clear h
  induction m with
  | nil => intro lo _; exact Memory.read_cell a w [] b rfl
  | cons c m ih =>
    obtain ⟨k, x⟩ := c
    intro lo h
    have h' := h
    simp only [Memory.wfFrom, Bool.and_eq_true, decide_eq_true_eq] at h
    unfold Memory.write
    split
    · next hak =>
      refine Memory.read_cell a w _ b ?_
      rw [Memory.read_cons, if_neg (by omega)]
      exact Memory.read_below h.2 (by omega)
    · split
      · next hak =>
        subst hak
        rw [Memory.read_cell a w m b (Memory.read_below h.2 (Nat.lt_succ_self a)), Memory.read_cons]
        split <;> rfl
      · next hak =>
        rw [Memory.read_cons, Memory.read_cons, ih (k + 1) h.2]
        by_cases hkb : k = b
        · rw [if_pos hkb, if_pos hkb, if_neg (by omega)]
        · rw [if_neg hkb, if_neg hkb]

/-- Generated memory is canonical. -/
theorem Memory.generate_wfFrom (f : Nat → Word) (lo n : Nat) :
    Memory.wfFrom lo (Memory.generate f lo n) = true := by
  induction n generalizing lo with
  | zero => rfl
  | succ n ih => exact Memory.cell_wfFrom (Nat.le_refl lo) (ih (lo + 1))

/-- Generated memory lists only the addresses it was generated for. -/
theorem Memory.generate_below (f : Nat → Word) {lo n top : Nat} (h : lo + n ≤ top) :
    Memory.below top (Memory.generate f lo n) = true := by
  induction n generalizing lo with
  | zero => rfl
  | succ n ih => exact Memory.cell_below (by omega) (ih (by omega))

/-- Generated memory reads as the function it was generated from. -/
theorem Memory.read_generate (f : Nat → Word) (lo n a : Nat) :
    Memory.read (Memory.generate f lo n) a = if lo ≤ a ∧ a < lo + n then f a else 0 := by
  induction n generalizing lo with
  | zero => rw [if_neg (by omega)]; rfl
  | succ n ih =>
    have h0 : Memory.read (Memory.generate f (lo + 1) n) lo = 0 :=
      Memory.read_below (Memory.generate_wfFrom f (lo + 1) n) (Nat.lt_succ_self lo)
    rw [Memory.generate, Memory.read_cell lo (f lo) _ a h0, ih (lo + 1)]
    by_cases hla : lo = a
    · subst hla; simp
    · rw [if_neg hla]
      exact if_congr (by omega) rfl rfl

end Sys2Proof.Machine
end

