-- ==== Sys2Proof/Laws/State.lean ====
section
/-! SUPPORT. One lemma for each field under each named update of the state, so that no later proof
unfolds a record update. -/

namespace Sys2Proof.Machine

/-! ### `State.answer` -/

@[simp] theorem State.answer_params (s : State) (r : Result) : (s.answer r).params = s.params := rfl
@[simp] theorem State.answer_ema (s : State) (r : Result) : (s.answer r).ema = s.ema := rfl
@[simp] theorem State.answer_ac (s : State) (r : Result) : (s.answer r).ac = s.ac := rfl
@[simp] theorem State.answer_l (s : State) (r : Result) : (s.answer r).l = s.l := rfl
@[simp] theorem State.answer_pc (s : State) (r : Result) : (s.answer r).pc = s.pc := rfl
@[simp] theorem State.answer_mq (s : State) (r : Result) : (s.answer r).mq = s.mq := rfl
@[simp] theorem State.answer_sr (s : State) (r : Result) : (s.answer r).sr = s.sr := rfl
@[simp] theorem State.answer_ma (s : State) (r : Result) : (s.answer r).ma = s.ma := rfl
@[simp] theorem State.answer_mb (s : State) (r : Result) : (s.answer r).mb = s.mb := rfl
@[simp] theorem State.answer_run (s : State) (r : Result) : (s.answer r).run = s.run := rfl
@[simp] theorem State.answer_ifr (s : State) (r : Result) : (s.answer r).ifr = s.ifr := rfl
@[simp] theorem State.answer_df (s : State) (r : Result) : (s.answer r).df = s.df := rfl
@[simp] theorem State.answer_ib (s : State) (r : Result) : (s.answer r).ib = s.ib := rfl
@[simp] theorem State.answer_sf (s : State) (r : Result) : (s.answer r).sf = s.sf := rfl
@[simp] theorem State.answer_uf (s : State) (r : Result) : (s.answer r).uf = s.uf := rfl
@[simp] theorem State.answer_ub (s : State) (r : Result) : (s.answer r).ub = s.ub := rfl
@[simp] theorem State.answer_ui (s : State) (r : Result) : (s.answer r).ui = s.ui := rfl
@[simp] theorem State.answer_ist (s : State) (r : Result) : (s.answer r).ist = s.ist := rfl
@[simp] theorem State.answer_irq (s : State) (r : Result) : (s.answer r).irq = s.irq := rfl
@[simp] theorem State.answer_mem (s : State) (r : Result) : (s.answer r).mem = s.mem := rfl
@[simp] theorem State.answer_reg (s : State) (r : Result) : (s.answer r).reg = s.reg := rfl
@[simp] theorem State.answer_phase (s : State) (r : Result) : (s.answer r).phase = s.phase := rfl
@[simp] theorem State.answer_pwr (s : State) (r : Result) : (s.answer r).pwr = s.pwr := rfl
@[simp] theorem State.answer_fatal (s : State) (r : Result) : (s.answer r).fatal = s.fatal := rfl
@[simp] theorem State.answer_result (s : State) (r : Result) : (s.answer r).result = some r := rfl
@[simp] theorem State.answer_agent (s : State) (r : Result) : (s.answer r).agent = s.agent := rfl
@[simp] theorem State.answer_inbox (s : State) (r : Result) : (s.answer r).inbox = s.inbox := rfl
@[simp] theorem State.answer_draws (s : State) (r : Result) : (s.answer r).draws = s.draws := rfl
@[simp] theorem State.answer_flagged (s : State) (r : Result) : (s.answer r).flagged = s.flagged := rfl

/-! ### `State.raiseFatal` -/

@[simp] theorem State.raiseFatal_params (s : State) (c : FatalCode) : (s.raiseFatal c).params = s.params := rfl
@[simp] theorem State.raiseFatal_ema (s : State) (c : FatalCode) : (s.raiseFatal c).ema = s.ema := rfl
@[simp] theorem State.raiseFatal_ac (s : State) (c : FatalCode) : (s.raiseFatal c).ac = s.ac := rfl
@[simp] theorem State.raiseFatal_l (s : State) (c : FatalCode) : (s.raiseFatal c).l = s.l := rfl
@[simp] theorem State.raiseFatal_pc (s : State) (c : FatalCode) : (s.raiseFatal c).pc = s.pc := rfl
@[simp] theorem State.raiseFatal_mq (s : State) (c : FatalCode) : (s.raiseFatal c).mq = s.mq := rfl
@[simp] theorem State.raiseFatal_sr (s : State) (c : FatalCode) : (s.raiseFatal c).sr = s.sr := rfl
@[simp] theorem State.raiseFatal_ma (s : State) (c : FatalCode) : (s.raiseFatal c).ma = s.ma := rfl
@[simp] theorem State.raiseFatal_mb (s : State) (c : FatalCode) : (s.raiseFatal c).mb = s.mb := rfl
@[simp] theorem State.raiseFatal_run (s : State) (c : FatalCode) : (s.raiseFatal c).run = false := rfl
@[simp] theorem State.raiseFatal_ifr (s : State) (c : FatalCode) : (s.raiseFatal c).ifr = s.ifr := rfl
@[simp] theorem State.raiseFatal_df (s : State) (c : FatalCode) : (s.raiseFatal c).df = s.df := rfl
@[simp] theorem State.raiseFatal_ib (s : State) (c : FatalCode) : (s.raiseFatal c).ib = s.ib := rfl
@[simp] theorem State.raiseFatal_sf (s : State) (c : FatalCode) : (s.raiseFatal c).sf = s.sf := rfl
@[simp] theorem State.raiseFatal_uf (s : State) (c : FatalCode) : (s.raiseFatal c).uf = s.uf := rfl
@[simp] theorem State.raiseFatal_ub (s : State) (c : FatalCode) : (s.raiseFatal c).ub = s.ub := rfl
@[simp] theorem State.raiseFatal_ui (s : State) (c : FatalCode) : (s.raiseFatal c).ui = s.ui := rfl
@[simp] theorem State.raiseFatal_ist (s : State) (c : FatalCode) : (s.raiseFatal c).ist = s.ist := rfl
@[simp] theorem State.raiseFatal_irq (s : State) (c : FatalCode) : (s.raiseFatal c).irq = s.irq := rfl
@[simp] theorem State.raiseFatal_mem (s : State) (c : FatalCode) : (s.raiseFatal c).mem = s.mem := rfl
@[simp] theorem State.raiseFatal_reg (s : State) (c : FatalCode) : (s.raiseFatal c).reg = s.reg := rfl
@[simp] theorem State.raiseFatal_phase (s : State) (c : FatalCode) : (s.raiseFatal c).phase = s.phase := rfl
@[simp] theorem State.raiseFatal_pwr (s : State) (c : FatalCode) : (s.raiseFatal c).pwr = s.pwr := rfl
@[simp] theorem State.raiseFatal_fatal (s : State) (c : FatalCode) : (s.raiseFatal c).fatal = some c := rfl
@[simp] theorem State.raiseFatal_result (s : State) (c : FatalCode) : (s.raiseFatal c).result = some (.fatal c) := rfl
@[simp] theorem State.raiseFatal_agent (s : State) (c : FatalCode) : (s.raiseFatal c).agent = s.agent := rfl
@[simp] theorem State.raiseFatal_inbox (s : State) (c : FatalCode) : (s.raiseFatal c).inbox = s.inbox := rfl
@[simp] theorem State.raiseFatal_draws (s : State) (c : FatalCode) : (s.raiseFatal c).draws = s.draws := rfl
@[simp] theorem State.raiseFatal_flagged (s : State) (c : FatalCode) : (s.raiseFatal c).flagged = s.flagged := rfl

/-! ### `State.drew` -/

@[simp] theorem State.drew_params (s : State) : (s.drew).params = s.params := rfl
@[simp] theorem State.drew_ema (s : State) : (s.drew).ema = s.ema := rfl
@[simp] theorem State.drew_ac (s : State) : (s.drew).ac = s.ac := rfl
@[simp] theorem State.drew_l (s : State) : (s.drew).l = s.l := rfl
@[simp] theorem State.drew_pc (s : State) : (s.drew).pc = s.pc := rfl
@[simp] theorem State.drew_mq (s : State) : (s.drew).mq = s.mq := rfl
@[simp] theorem State.drew_sr (s : State) : (s.drew).sr = s.sr := rfl
@[simp] theorem State.drew_ma (s : State) : (s.drew).ma = s.ma := rfl
@[simp] theorem State.drew_mb (s : State) : (s.drew).mb = s.mb := rfl
@[simp] theorem State.drew_run (s : State) : (s.drew).run = s.run := rfl
@[simp] theorem State.drew_ifr (s : State) : (s.drew).ifr = s.ifr := rfl
@[simp] theorem State.drew_df (s : State) : (s.drew).df = s.df := rfl
@[simp] theorem State.drew_ib (s : State) : (s.drew).ib = s.ib := rfl
@[simp] theorem State.drew_sf (s : State) : (s.drew).sf = s.sf := rfl
@[simp] theorem State.drew_uf (s : State) : (s.drew).uf = s.uf := rfl
@[simp] theorem State.drew_ub (s : State) : (s.drew).ub = s.ub := rfl
@[simp] theorem State.drew_ui (s : State) : (s.drew).ui = s.ui := rfl
@[simp] theorem State.drew_ist (s : State) : (s.drew).ist = s.ist := rfl
@[simp] theorem State.drew_irq (s : State) : (s.drew).irq = s.irq := rfl
@[simp] theorem State.drew_mem (s : State) : (s.drew).mem = s.mem := rfl
@[simp] theorem State.drew_reg (s : State) : (s.drew).reg = s.reg := rfl
@[simp] theorem State.drew_phase (s : State) : (s.drew).phase = s.phase := rfl
@[simp] theorem State.drew_pwr (s : State) : (s.drew).pwr = s.pwr := rfl
@[simp] theorem State.drew_fatal (s : State) : (s.drew).fatal = s.fatal := rfl
@[simp] theorem State.drew_result (s : State) : (s.drew).result = s.result := rfl
@[simp] theorem State.drew_agent (s : State) : (s.drew).agent = s.agent := rfl
@[simp] theorem State.drew_inbox (s : State) : (s.drew).inbox = s.inbox := rfl
@[simp] theorem State.drew_draws (s : State) : (s.drew).draws = s.draws + 1 := rfl
@[simp] theorem State.drew_flagged (s : State) : (s.drew).flagged = s.flagged := rfl

/-! ### `State.disableInterrupts` -/

@[simp] theorem State.disableInterrupts_params (s : State) : (s.disableInterrupts).params = s.params := rfl
@[simp] theorem State.disableInterrupts_ema (s : State) : (s.disableInterrupts).ema = s.ema := rfl
@[simp] theorem State.disableInterrupts_ac (s : State) : (s.disableInterrupts).ac = s.ac := rfl
@[simp] theorem State.disableInterrupts_l (s : State) : (s.disableInterrupts).l = s.l := rfl
@[simp] theorem State.disableInterrupts_pc (s : State) : (s.disableInterrupts).pc = s.pc := rfl
@[simp] theorem State.disableInterrupts_mq (s : State) : (s.disableInterrupts).mq = s.mq := rfl
@[simp] theorem State.disableInterrupts_sr (s : State) : (s.disableInterrupts).sr = s.sr := rfl
@[simp] theorem State.disableInterrupts_ma (s : State) : (s.disableInterrupts).ma = s.ma := rfl
@[simp] theorem State.disableInterrupts_mb (s : State) : (s.disableInterrupts).mb = s.mb := rfl
@[simp] theorem State.disableInterrupts_run (s : State) : (s.disableInterrupts).run = s.run := rfl
@[simp] theorem State.disableInterrupts_ifr (s : State) : (s.disableInterrupts).ifr = s.ifr := rfl
@[simp] theorem State.disableInterrupts_df (s : State) : (s.disableInterrupts).df = s.df := rfl
@[simp] theorem State.disableInterrupts_ib (s : State) : (s.disableInterrupts).ib = s.ib := rfl
@[simp] theorem State.disableInterrupts_sf (s : State) : (s.disableInterrupts).sf = s.sf := rfl
@[simp] theorem State.disableInterrupts_uf (s : State) : (s.disableInterrupts).uf = s.uf := rfl
@[simp] theorem State.disableInterrupts_ub (s : State) : (s.disableInterrupts).ub = s.ub := rfl
@[simp] theorem State.disableInterrupts_ui (s : State) : (s.disableInterrupts).ui = s.ui := rfl
@[simp] theorem State.disableInterrupts_ist (s : State) : (s.disableInterrupts).ist = .disabled := rfl
@[simp] theorem State.disableInterrupts_irq (s : State) : (s.disableInterrupts).irq = s.irq := rfl
@[simp] theorem State.disableInterrupts_mem (s : State) : (s.disableInterrupts).mem = s.mem := rfl
@[simp] theorem State.disableInterrupts_reg (s : State) : (s.disableInterrupts).reg = s.reg := rfl
@[simp] theorem State.disableInterrupts_phase (s : State) : (s.disableInterrupts).phase = s.phase := rfl
@[simp] theorem State.disableInterrupts_pwr (s : State) : (s.disableInterrupts).pwr = s.pwr := rfl
@[simp] theorem State.disableInterrupts_fatal (s : State) : (s.disableInterrupts).fatal = s.fatal := rfl
@[simp] theorem State.disableInterrupts_result (s : State) : (s.disableInterrupts).result = s.result := rfl
@[simp] theorem State.disableInterrupts_agent (s : State) : (s.disableInterrupts).agent = s.agent := rfl
@[simp] theorem State.disableInterrupts_inbox (s : State) : (s.disableInterrupts).inbox = s.inbox := rfl
@[simp] theorem State.disableInterrupts_draws (s : State) : (s.disableInterrupts).draws = s.draws := rfl
@[simp] theorem State.disableInterrupts_flagged (s : State) : (s.disableInterrupts).flagged = s.flagged := rfl

/-! ### `State.clearMeu` -/

@[simp] theorem State.clearMeu_params (s : State) : (s.clearMeu).params = s.params := rfl
@[simp] theorem State.clearMeu_ema (s : State) : (s.clearMeu).ema = s.ema := rfl
@[simp] theorem State.clearMeu_ac (s : State) : (s.clearMeu).ac = s.ac := rfl
@[simp] theorem State.clearMeu_l (s : State) : (s.clearMeu).l = s.l := rfl
@[simp] theorem State.clearMeu_pc (s : State) : (s.clearMeu).pc = s.pc := rfl
@[simp] theorem State.clearMeu_mq (s : State) : (s.clearMeu).mq = s.mq := rfl
@[simp] theorem State.clearMeu_sr (s : State) : (s.clearMeu).sr = s.sr := rfl
@[simp] theorem State.clearMeu_ma (s : State) : (s.clearMeu).ma = s.ma := rfl
@[simp] theorem State.clearMeu_mb (s : State) : (s.clearMeu).mb = s.mb := rfl
@[simp] theorem State.clearMeu_run (s : State) : (s.clearMeu).run = s.run := rfl
@[simp] theorem State.clearMeu_ifr (s : State) : (s.clearMeu).ifr = 0 := rfl
@[simp] theorem State.clearMeu_df (s : State) : (s.clearMeu).df = 0 := rfl
@[simp] theorem State.clearMeu_ib (s : State) : (s.clearMeu).ib = 0 := rfl
@[simp] theorem State.clearMeu_sf (s : State) : (s.clearMeu).sf = 0 := rfl
@[simp] theorem State.clearMeu_uf (s : State) : (s.clearMeu).uf = 0 := rfl
@[simp] theorem State.clearMeu_ub (s : State) : (s.clearMeu).ub = 0 := rfl
@[simp] theorem State.clearMeu_ui (s : State) : (s.clearMeu).ui = 0 := rfl
@[simp] theorem State.clearMeu_ist (s : State) : (s.clearMeu).ist = s.ist := rfl
@[simp] theorem State.clearMeu_irq (s : State) : (s.clearMeu).irq = s.irq := rfl
@[simp] theorem State.clearMeu_mem (s : State) : (s.clearMeu).mem = s.mem := rfl
@[simp] theorem State.clearMeu_reg (s : State) : (s.clearMeu).reg = s.reg := rfl
@[simp] theorem State.clearMeu_phase (s : State) : (s.clearMeu).phase = s.phase := rfl
@[simp] theorem State.clearMeu_pwr (s : State) : (s.clearMeu).pwr = s.pwr := rfl
@[simp] theorem State.clearMeu_fatal (s : State) : (s.clearMeu).fatal = s.fatal := rfl
@[simp] theorem State.clearMeu_result (s : State) : (s.clearMeu).result = s.result := rfl
@[simp] theorem State.clearMeu_agent (s : State) : (s.clearMeu).agent = s.agent := rfl
@[simp] theorem State.clearMeu_inbox (s : State) : (s.clearMeu).inbox = s.inbox := rfl
@[simp] theorem State.clearMeu_draws (s : State) : (s.clearMeu).draws = s.draws := rfl
@[simp] theorem State.clearMeu_flagged (s : State) : (s.clearMeu).flagged = s.flagged := rfl

/-! ### `State.flag` -/

@[simp] theorem State.flag_params (s : State) : (s.flag).params = s.params := rfl
@[simp] theorem State.flag_ema (s : State) : (s.flag).ema = s.ema := rfl
@[simp] theorem State.flag_ac (s : State) : (s.flag).ac = s.ac := rfl
@[simp] theorem State.flag_l (s : State) : (s.flag).l = s.l := rfl
@[simp] theorem State.flag_pc (s : State) : (s.flag).pc = s.pc := rfl
@[simp] theorem State.flag_mq (s : State) : (s.flag).mq = s.mq := rfl
@[simp] theorem State.flag_sr (s : State) : (s.flag).sr = s.sr := rfl
@[simp] theorem State.flag_ma (s : State) : (s.flag).ma = s.ma := rfl
@[simp] theorem State.flag_mb (s : State) : (s.flag).mb = s.mb := rfl
@[simp] theorem State.flag_run (s : State) : (s.flag).run = s.run := rfl
@[simp] theorem State.flag_ifr (s : State) : (s.flag).ifr = s.ifr := rfl
@[simp] theorem State.flag_df (s : State) : (s.flag).df = s.df := rfl
@[simp] theorem State.flag_ib (s : State) : (s.flag).ib = s.ib := rfl
@[simp] theorem State.flag_sf (s : State) : (s.flag).sf = s.sf := rfl
@[simp] theorem State.flag_uf (s : State) : (s.flag).uf = s.uf := rfl
@[simp] theorem State.flag_ub (s : State) : (s.flag).ub = s.ub := rfl
@[simp] theorem State.flag_ui (s : State) : (s.flag).ui = s.ui := rfl
@[simp] theorem State.flag_ist (s : State) : (s.flag).ist = s.ist := rfl
@[simp] theorem State.flag_irq (s : State) : (s.flag).irq = s.irq := rfl
@[simp] theorem State.flag_mem (s : State) : (s.flag).mem = s.mem := rfl
@[simp] theorem State.flag_reg (s : State) : (s.flag).reg = s.reg := rfl
@[simp] theorem State.flag_phase (s : State) : (s.flag).phase = s.phase := rfl
@[simp] theorem State.flag_pwr (s : State) : (s.flag).pwr = s.pwr := rfl
@[simp] theorem State.flag_fatal (s : State) : (s.flag).fatal = s.fatal := rfl
@[simp] theorem State.flag_result (s : State) : (s.flag).result = s.result := rfl
@[simp] theorem State.flag_agent (s : State) : (s.flag).agent = s.agent := rfl
@[simp] theorem State.flag_inbox (s : State) : (s.flag).inbox = s.inbox := rfl
@[simp] theorem State.flag_draws (s : State) : (s.flag).draws = s.draws := rfl
@[simp] theorem State.flag_flagged (s : State) : (s.flag).flagged = true := rfl

/-! ### `State.setDState` -/

@[simp] theorem State.setDState_params (u : Nat) (d : DState) (s : State) : (s.setDState u d).params = s.params := rfl
@[simp] theorem State.setDState_ema (u : Nat) (d : DState) (s : State) : (s.setDState u d).ema = s.ema := rfl
@[simp] theorem State.setDState_ac (u : Nat) (d : DState) (s : State) : (s.setDState u d).ac = s.ac := rfl
@[simp] theorem State.setDState_l (u : Nat) (d : DState) (s : State) : (s.setDState u d).l = s.l := rfl
@[simp] theorem State.setDState_pc (u : Nat) (d : DState) (s : State) : (s.setDState u d).pc = s.pc := rfl
@[simp] theorem State.setDState_mq (u : Nat) (d : DState) (s : State) : (s.setDState u d).mq = s.mq := rfl
@[simp] theorem State.setDState_sr (u : Nat) (d : DState) (s : State) : (s.setDState u d).sr = s.sr := rfl
@[simp] theorem State.setDState_ma (u : Nat) (d : DState) (s : State) : (s.setDState u d).ma = s.ma := rfl
@[simp] theorem State.setDState_mb (u : Nat) (d : DState) (s : State) : (s.setDState u d).mb = s.mb := rfl
@[simp] theorem State.setDState_run (u : Nat) (d : DState) (s : State) : (s.setDState u d).run = s.run := rfl
@[simp] theorem State.setDState_ifr (u : Nat) (d : DState) (s : State) : (s.setDState u d).ifr = s.ifr := rfl
@[simp] theorem State.setDState_df (u : Nat) (d : DState) (s : State) : (s.setDState u d).df = s.df := rfl
@[simp] theorem State.setDState_ib (u : Nat) (d : DState) (s : State) : (s.setDState u d).ib = s.ib := rfl
@[simp] theorem State.setDState_sf (u : Nat) (d : DState) (s : State) : (s.setDState u d).sf = s.sf := rfl
@[simp] theorem State.setDState_uf (u : Nat) (d : DState) (s : State) : (s.setDState u d).uf = s.uf := rfl
@[simp] theorem State.setDState_ub (u : Nat) (d : DState) (s : State) : (s.setDState u d).ub = s.ub := rfl
@[simp] theorem State.setDState_ui (u : Nat) (d : DState) (s : State) : (s.setDState u d).ui = s.ui := rfl
@[simp] theorem State.setDState_ist (u : Nat) (d : DState) (s : State) : (s.setDState u d).ist = s.ist := rfl
@[simp] theorem State.setDState_irq (u : Nat) (d : DState) (s : State) : (s.setDState u d).irq = s.irq := rfl
@[simp] theorem State.setDState_mem (u : Nat) (d : DState) (s : State) : (s.setDState u d).mem = s.mem := rfl
@[simp] theorem State.setDState_reg (u : Nat) (d : DState) (s : State) : (s.setDState u d).reg = updateUnit u (fun r => { r with dstate := d }) s.reg := rfl
@[simp] theorem State.setDState_phase (u : Nat) (d : DState) (s : State) : (s.setDState u d).phase = s.phase := rfl
@[simp] theorem State.setDState_pwr (u : Nat) (d : DState) (s : State) : (s.setDState u d).pwr = s.pwr := rfl
@[simp] theorem State.setDState_fatal (u : Nat) (d : DState) (s : State) : (s.setDState u d).fatal = s.fatal := rfl
@[simp] theorem State.setDState_result (u : Nat) (d : DState) (s : State) : (s.setDState u d).result = s.result := rfl
@[simp] theorem State.setDState_agent (u : Nat) (d : DState) (s : State) : (s.setDState u d).agent = s.agent := rfl
@[simp] theorem State.setDState_inbox (u : Nat) (d : DState) (s : State) : (s.setDState u d).inbox = s.inbox := rfl
@[simp] theorem State.setDState_draws (u : Nat) (d : DState) (s : State) : (s.setDState u d).draws = s.draws := rfl
@[simp] theorem State.setDState_flagged (u : Nat) (d : DState) (s : State) : (s.setDState u d).flagged = s.flagged := rfl

end Sys2Proof.Machine
end

