-- ==== Sys2Proof/Laws/Ops.lean ====
section
/-! SUPPORT. What each shared operation can do, said once. -/

namespace Sys2Proof.Machine

/-! ### The gate -/

/-- Outside the fatal state a permitted command is performed. -/
theorem command_runs {row : Rights} {s : State} {body : State → Outcome} (hf : s.fatal = none)
    (hp : permits row s = true) : command row s body = body s := by
  simp [command, hf, hp]

/-- Outside the fatal state a command that is not permitted is refused. -/
theorem command_refused {row : Rights} {s : State} {body : State → Outcome} (hf : s.fatal = none)
    (hp : permits row s = false) : command row s body = .refused .permission := by
  simp [command, hf, hp]

/-- A command that survives the fatal state is performed when permitted, in any state. -/
theorem command_survives {row : Rights} {s : State} {body : State → Outcome}
    (hs : survivesFatal row = true) (hp : permits row s = true) : command row s body = body s := by
  unfold command
  split
  · next h => rw [hs] at h; cases h
  · rw [if_pos hp]

/-- In the fatal state any other command returns `Fatal(FATAL)` (R262). -/
theorem command_fatal {row : Rights} {s : State} {body : State → Outcome} {c : FatalCode}
    (hf : s.fatal = some c) (hs : survivesFatal row = false) :
    command row s body = .next (s.answer (.fatal c)) := by
  simp [command, hf, hs]

/-- Everything the gate can do when a next state comes out. -/
theorem command_next {row : Rights} {s t : State} {body : State → Outcome}
    (h : command row s body = .next t) :
    (∃ c, s.fatal = some c ∧ survivesFatal row = false ∧ t = s.answer (.fatal c)) ∨
    ((s.fatal = none ∨ survivesFatal row = true) ∧ permits row s = true ∧ body s = .next t) := by
  unfold command at h
  split at h
  · next c hf hs => injection h with h; exact .inl ⟨c, hf, hs, h.symm⟩
  · next hn =>
    split at h
    · next hp =>
      refine .inr ⟨?_, hp, h⟩
      cases hf : s.fatal with
      | none => exact .inl rfl
      | some c =>
        cases hs : survivesFatal row with
        | true => exact .inr rfl
        | false => exact absurd hs (hn c hf)
    · cases h

/-! ### The rows of the rights table (R84) -/

/-- A read is performed for the core and the host, in the fatal state too. -/
theorem command_read {s : State} (h : s.agent = .core ∨ s.agent = .host) (b : State → Outcome) :
    command .read s b = b s :=
  command_survives rfl (by rcases h with h | h <;> simp [permits, h])

/-- A write is performed for the core, and for the host while halted. -/
theorem command_coreWrite {s : State} (hf : s.fatal = none)
    (h : s.agent = .core ∨ s.agent = .host ∧ s.run = false) (b : State → Outcome) :
    command .coreWrite s b = b s :=
  command_runs hf (by simpa [permits] using h)

/-- What only the host does while halted. -/
theorem command_hostHalted {s : State} (hf : s.fatal = none) (h : s.agent = .host ∧ s.run = false)
    (b : State → Outcome) : command .hostHalted s b = b s :=
  command_runs hf (by simpa [permits] using h)

theorem command_coreOnly {s : State} (hf : s.fatal = none) (h : s.agent = .core)
    (b : State → Outcome) : command .coreOnly s b = b s :=
  command_runs hf (by simp [permits, h])

theorem command_coreActive {s : State} (hf : s.fatal = none) (h : s.agent = .core)
    (hp : s.phase = .active) (b : State → Outcome) : command .coreActive s b = b s :=
  command_runs hf (by simp [permits, h, hp])

theorem command_deviceOnly {s : State} (hf : s.fatal = none) (h : s.agent = .device)
    (b : State → Outcome) : command .deviceOnly s b = b s :=
  command_runs hf (by simp [permits, h])

theorem command_hostConfig {s : State} (hf : s.fatal = none) (h : s.agent = .host)
    (hp : s.phase = .config) (b : State → Outcome) : command .hostConfig s b = b s :=
  command_runs hf (by simp [permits, h, hp])

theorem command_hostMount {s : State} (hf : s.fatal = none) (h : s.agent = .host)
    (hp : s.phase ≠ .down) (b : State → Outcome) : command .hostMount s b = b s :=
  command_runs hf (by simp [permits, h, hp])

theorem command_hostAlways {s : State} (h : s.agent = .host) (b : State → Outcome) :
    command .hostAlways s b = b s :=
  command_survives rfl (by simp [permits, h])

theorem command_resetActive {s : State} (hf : s.fatal = none)
    (h : s.agent = .core ∨ s.agent = .host) (hp : s.phase = .active) (b : State → Outcome) :
    command .resetActive s b = b s :=
  command_runs hf (by rcases h with h | h <;> simp [permits, h, hp])

/-! ### The result port -/

theorem done_next {s t : State} (h : done s = .next t) : t = s.answer .ok := by
  injection h with h; exact h.symm

theorem giveNum_next {n : Nat} {s t : State} (h : giveNum n s = .next t) :
    t = s.answer (.okValue (.num n)) := by
  injection h with h; exact h.symm

theorem fail_next {c : ErrCode} {s t : State} (h : fail c s = .next t) : t = s.answer (.err c) := by
  injection h with h; exact h.symm

/-! ### The memory-extension unit -/

theorem State.ifEma_off {s : State} {f : State → State} (h : s.ema = .off) : s.ifEma f = s := by
  simp [State.ifEma, h]

theorem State.ifEma_on {s : State} {f : State → State} (h : s.ema = .on) : s.ifEma f = f s := by
  simp [State.ifEma, h]

/-- A memory-extension operation leaves the state as it is or makes its update. -/
theorem State.ifEma_cases (s : State) (f : State → State) :
    s.ema = .off ∧ s.ifEma f = s ∨ s.ema = .on ∧ s.ifEma f = f s := by
  cases h : s.ema with
  | off => exact .inl ⟨rfl, State.ifEma_off h⟩
  | on => exact .inr ⟨rfl, State.ifEma_on h⟩

/-! ### The request counter -/

/-- Posting counts up, or overflows at a finite bound (R180). -/
theorem postRequest_cases (s : State) :
    s.params.reqMax = some s.irq ∧ postRequest s = s.raiseFatal .reqOverflow ∨
    s.params.reqMax ≠ some s.irq ∧ postRequest s = { s with irq := s.irq + 1, result := some .ok } := by
  unfold postRequest atReqMax
  by_cases h : s.params.reqMax = some s.irq
  · exact .inl ⟨h, by simp [h]⟩
  · exact .inr ⟨h, by simp [h]⟩

/-- Withdrawing counts down, or underflows at 0 (R181). -/
theorem withdrawRequest_cases (s : State) :
    s.irq = 0 ∧ withdrawRequest s = s.raiseFatal .reqUnderflow ∨
    ∃ n, s.irq = n + 1 ∧ withdrawRequest s = { s with irq := n, result := some .ok } := by
  unfold withdrawRequest
  split
  · next h => exact .inl ⟨h, rfl⟩
  · next n h => exact .inr ⟨n, h, rfl⟩

/-- Whose the request is makes no difference to the counter (R180). -/
theorem postRequest_agent {s : State} (h : s.agent = .core) :
    postRequest s = { postRequest { s with agent := .device } with agent := .core } := by
  conv => lhs; rw [show s = { s with agent := .core } by cases s; dsimp only at h; subst h; rfl]
  unfold postRequest atReqMax
  dsimp only
  split <;> rfl

/-- Whose the withdrawal is makes no difference to the counter (R181). -/
theorem withdrawRequest_agent {s : State} (h : s.agent = .core) :
    withdrawRequest s = { withdrawRequest { s with agent := .device } with agent := .core } := by
  conv => lhs; rw [show s = { s with agent := .core } by cases s; dsimp only at h; subst h; rfl]
  unfold withdrawRequest
  dsimp only
  split <;> rfl

/-! ### Interrupts -/

/-- An accepted interrupt changes the save-field register, the fields, the buffers, the user flag,
the enable state, and through the redirect word 0 and the program counter; nothing else (R269). -/
theorem takeInterrupt_frame (s : State) :
    ∃ ifr df ib sf uf ub mem pc, s.takeInterrupt =
      { s with ifr := ifr, df := df, ib := ib, sf := sf, uf := uf, ub := ub, ist := .disabled,
               mem := mem, pc := pc } := by
  unfold State.takeInterrupt State.redirect State.enterInterrupt
  rcases State.ifEma_cases s (fun s =>
    { s with sf := packSave s.uf s.ifr s.df, ifr := 0, df := 0, uf := 0, ib := 0, ub := 0,
             ist := .disabled }) with ⟨_, h⟩ | ⟨_, h⟩ <;> rw [h] <;> split <;>
    exact ⟨_, _, _, _, _, _, _, _, rfl⟩

/-- Where memory goes in an accepted interrupt (R266). -/
theorem takeInterrupt_mem (s : State) :
    s.takeInterrupt.mem = s.mem ∨ s.takeInterrupt.mem = Memory.write s.mem 0 s.pc := by
  unfold State.takeInterrupt State.redirect State.enterInterrupt
  rcases State.ifEma_cases s (fun s =>
    { s with sf := packSave s.uf s.ifr s.df, ifr := 0, df := 0, uf := 0, ib := 0, ub := 0,
             ist := .disabled }) with ⟨_, h⟩ | ⟨_, h⟩ <;> rw [h] <;> split
  · exact .inr rfl
  · exact .inl rfl
  · exact .inr rfl
  · exact .inl rfl

/-- The commit changes the enable state alone (R184). -/
theorem commitEnable_frame (s : State) : ∃ i, s.commitEnable = { s with ist := i } := by
  unfold State.commitEnable
  split
  · exact ⟨_, rfl⟩
  · exact ⟨_, rfl⟩
  · exact ⟨_, rfl⟩

/-- The deferred enable changes the enable state, and the draw counter where it draws (R183). -/
theorem enableDeferred_frame (s : State) :
    ∃ i n, enableDeferred s = { s with ist := i, draws := n } := by
  unfold enableDeferred
  repeat' split
  all_goals exact ⟨_, _, rfl⟩

/-- From Disabled or DeferredEnable the deferred enable leaves DeferredEnable (R183). -/
theorem enableDeferred_of_not_enabled {s : State} (h : s.ist ≠ .enabled) :
    enableDeferred s = { s with ist := .deferredEnable } := by
  unfold enableDeferred
  cases hi : s.ist with
  | disabled => rfl
  | deferredEnable => rfl
  | enabled => exact absurd hi h

/-! ### Draws and power-up -/

theorem pick_singleton {α : Type} (n : Nat) (a : α) : pick n [a] = some a := rfl

/-- A draw is a member of the set it is drawn from. -/
theorem pick_mem {α : Type} {n : Nat} {l : List α} {a : α} (h : pick n l = some a) : a ∈ l := by
  unfold pick at h
  split at h
  · cases h
  · injection h with h; simp [h]
  · exact List.mem_of_getElem? h

/-- A draw from a set that is not empty has an outcome. -/
theorem pick_isSome {α : Type} (n : Nat) {l : List α} (h : l ≠ []) : (pick n l).isSome = true := by
  unfold pick
  split
  · exact absurd rfl h
  · rfl
  · next a b rest =>
    have hlt : Config.choice n % (rest.length + 2) < (a :: b :: rest).length :=
      Nat.mod_lt _ (by simp)
    rw [List.getElem?_eq_getElem hlt]
    rfl

/-- Fresh memory is canonical and within the configured size (R240, R301). -/
theorem freshMemory_frame (e : Ema) (s : State) :
    ∃ mem n, s.freshMemory e = { s with mem := mem, draws := n } ∧ Memory.wf mem = true ∧
      Memory.below (memWords e) mem = true := by
  unfold State.freshMemory
  split
  · exact ⟨[], _, rfl, rfl, rfl⟩
  · exact ⟨_, _, rfl, Memory.generate_wfFrom _ _ _, Memory.generate_below _ (by simp)⟩

/-- Power-up under the default parameters is `State.reset`. -/
theorem powerUp_default : State.powerUp Params.default = State.reset := rfl

end Sys2Proof.Machine
end

