-- ==== Sys2Proof/Laws/Devices.lean ====
section
/-! SUPPORT. What running handlers over the registry, mounting, dispatching and stepping a device can
do (R210 to R221). -/

namespace Sys2Proof.Machine

/-! ### The registry -/

theorem findUnit_mem {reg : List DeviceRecord} {u : Nat} {r : DeviceRecord}
    (h : findUnit reg u = some r) : r ∈ reg ∧ r.unit = u := by
  refine ⟨List.mem_of_find?_eq_some h, ?_⟩
  have := List.find?_some h
  simpa using this

theorem findUnit_none {reg : List DeviceRecord} {u : Nat} (h : findUnit reg u = none) :
    u ∉ reg.map DeviceRecord.unit := by
  intro hm
  obtain ⟨r, hr, hu⟩ := List.mem_map.1 hm
  have := List.find?_eq_none.1 h r hr
  simp [hu] at this

theorem findUnit_eq_none {reg : List DeviceRecord} {u : Nat} (h : ∀ r ∈ reg, r.unit ≠ u) :
    findUnit reg u = none := by
  unfold findUnit
  rw [List.find?_eq_none]
  intro r hr
  simpa using h r hr

theorem findLabel_mem {reg : List DeviceRecord} {lbl : String} {r : DeviceRecord}
    (h : findLabel reg lbl = some r) : r ∈ reg ∧ r.label = lbl := by
  refine ⟨List.mem_of_find?_eq_some h, ?_⟩
  have := List.find?_some h
  simpa using this

/-- Changing a record without its identity keeps the identities of the registry. -/
theorem updateUnit_map {α : Type} (g : DeviceRecord → α) {u : Nat} {f : DeviceRecord → DeviceRecord}
    (hf : ∀ r, g (f r) = g r) (reg : List DeviceRecord) : (updateUnit u f reg).map g = reg.map g := by
  unfold updateUnit
  rw [List.map_map]
  refine List.map_congr_left fun r _ => ?_
  simp only [Function.comp]
  split
  · exact hf r
  · rfl

/-- Running one handler of every record changes device states only. -/
theorem drawEach_map {α : Type} (g : DeviceRecord → α)
    (hg : ∀ (r : DeviceRecord) (d : DState), g { r with dstate := d } = g r)
    {f : DeviceRecord → Nat → Option DState} {n m : Nat} {reg reg' : List DeviceRecord}
    (h : drawEach f n reg = .ok (reg', m)) : reg'.map g = reg.map g := by
  induction reg generalizing n reg' with
  | nil => simp only [drawEach] at h; injection h with h; injection h with h _; rw [← h]
  | cons r rest ih =>
    simp only [drawEach] at h
    split at h
    · cases h
    · split at h
      · cases h
      · next d _ q k hd =>
        injection h with h; injection h with h1 h2
        subst h1; subst h2
        rw [List.map_cons, List.map_cons, hg, ih hd]

/-- If every handler has an outcome at every draw, running them all goes through. -/
theorem drawEach_ok {f : DeviceRecord → Nat → Option DState} {reg : List DeviceRecord}
    (h : ∀ r ∈ reg, ∀ n, (f r n).isSome = true) (n : Nat) :
    ∃ reg', drawEach f n reg = .ok (reg', n + reg.length) := by
  induction reg generalizing n with
  | nil => exact ⟨[], rfl⟩
  | cons r rest ih =>
    obtain ⟨d, hd⟩ := Option.isSome_iff_exists.1 (h r (List.mem_cons_self ..) n)
    obtain ⟨q, hq⟩ := ih (fun r hr => h r (List.mem_cons_of_mem _ hr)) (n + 1)
    refine ⟨{ r with dstate := d } :: q, ?_⟩
    simp only [drawEach, hd, hq, List.length_cons]
    rw [show n + 1 + rest.length = n + (rest.length + 1) by omega]

/-- Everything running a handler over the registry can do when a next state comes out. -/
theorem forEachDevice_next {h : Handler} {f : DeviceRecord → Nat → Option DState} {s t : State}
    {go : State → Outcome} (hr : forEachDevice h f s go = .next t) :
    ∃ reg n, drawEach f s.draws s.reg = .ok (reg, n) ∧ go { s with reg := reg, draws := n } = .next t := by
  unfold forEachDevice at hr
  split at hr
  · cases hr
  · next reg n hd => exact ⟨reg, n, hd, hr⟩

/-- Everything mounting a record can do when a next state comes out (R212). -/
theorem mountRecord_next {r : DeviceRecord} {path : String} {s t : State}
    (h : mountRecord r path s = .next t) :
    (∃ d, t = { s.drew with
      reg := updateUnit r.unit (fun r => { r with dstate := d, mounted := some path }) s.reg,
      result := some .ok }) ∨
    t = s.drew.answer (.err .openFailed) := by
  unfold mountRecord at h
  split at h
  · cases h
  · injection h with h; exact .inl ⟨_, h.symm⟩
  · injection h with h; exact .inr h.symm

/-! ### Dispatch and autonomous steps -/

/-- What every command of a handler keeps, the whole handler keeps. -/
theorem runHandler_keeps {P : State → Prop} {cmds : List Instr}
    (hk : ∀ k ∈ cmds, ∀ s t, P s → handlerCommand k s = .next t → P t) {s t : State} (hs : P s)
    (h : runHandler cmds s = .next t) : P t := by
  induction cmds generalizing s with
  | nil => injection h with h; exact h ▸ hs
  | cons k ks ih =>
    simp only [runHandler] at h
    split at h
    · next u hu =>
      have hP := hk k (List.mem_cons_self ..) s u hs hu
      split at h
      · injection h with h; exact h ▸ hP
      · exact ih (fun k hk' => hk k (List.mem_cons_of_mem _ hk')) hP h
    · cases h
    · cases h

/-- A handler that has gone through one part of its commands goes on with the rest (R216). -/
theorem runHandler_append {pre post : List Instr} {s t : State} (h : runHandler pre s = .next t)
    (hf : t.fatal = none) : runHandler (pre ++ post) s = runHandler post t := by
  induction pre generalizing s with
  | nil => injection h with h; rw [h]; rfl
  | cons k ks ih =>
    simp only [runHandler, List.cons_append] at h ⊢
    split at h
    · split at h
      · next hx => injection h with h; subst h; simp [hf] at hx
      · next hx => rw [if_neg hx]; exact ih h
    · cases h
    · cases h

/-- Everything a dispatch to a record can do when a next state comes out (R216). -/
theorem dispatchTo_next {r : DeviceRecord} {c : Nat} {s t : State} (h : dispatchTo r c s = .next t) :
    ∃ d cmds u, dispatchOutcome s r c s.draws = some (d, cmds) ∧ runHandler cmds s.drew = .next u ∧
      (u.fatal ≠ none ∧ t = u ∨ u.fatal = none ∧ t = (u.setDState r.unit d).answer .ok) := by
  unfold dispatchTo at h
  split at h
  · cases h
  · next d cmds hd =>
    split at h
    · next u hu =>
      refine ⟨d, cmds, u, hd, hu, ?_⟩
      split at h
      · next hf => injection h with h; exact .inl ⟨by simpa [Option.isSome_iff_ne_none] using hf, h.symm⟩
      · next hf => exact .inr ⟨by simpa using hf, done_next h⟩
    · cases h
    · cases h

/-- What posting and withdrawing keep, the commands of a device step keep (R221). -/
theorem runStep_keeps {P : State → Prop} (hp : ∀ s, P s → P (postRequest s))
    (hw : ∀ s, P s → P (withdrawRequest s)) (cmds : List StepCmd) {s : State} (hs : P s) :
    P (runStep cmds s) := by
  induction cmds generalizing s with
  | nil => exact hs
  | cons k ks ih =>
    have h1 : P (stepCommand k s) := by
      cases k with
      | post => exact hp s hs
      | withdraw => exact hw s hs
    simp only [runStep]
    split
    · exact h1
    · exact ih h1

/-- Posting and withdrawing change the counter, the result port, and in a fatal error `FATAL` and
`RUN`; so do the commands of a device step (R180, R181, R221, R262). -/
theorem runStep_frame (cmds : List StepCmd) (s : State) :
    ∃ irq fatal run result, runStep cmds s =
      { s with irq := irq, fatal := fatal, run := run, result := result } := by
  refine runStep_keeps (P := fun t => ∃ irq fatal run result, t =
    { s with irq := irq, fatal := fatal, run := run, result := result }) ?_ ?_ cmds
    ⟨s.irq, s.fatal, s.run, s.result, rfl⟩
  · rintro _ ⟨i, f, r, q, rfl⟩
    rcases postRequest_cases { s with irq := i, fatal := f, run := r, result := q } with
      ⟨_, h⟩ | ⟨_, h⟩ <;> rw [h] <;> exact ⟨_, _, _, _, rfl⟩
  · rintro _ ⟨i, f, r, q, rfl⟩
    rcases withdrawRequest_cases { s with irq := i, fatal := f, run := r, result := q } with
      ⟨_, h⟩ | ⟨_, _, h⟩ <;> rw [h] <;> exact ⟨_, _, _, _, rfl⟩

/-- Everything one command of a device step can do (R221). -/
theorem stepCommand_cases (k : StepCmd) (s : State) :
    (∃ c i, stepCommand k s =
      { s with irq := i, fatal := some c, run := false, result := some (.fatal c) }) ∨
    ∃ i r, stepCommand k s = { s with irq := i, result := r } := by
  cases k
  · rcases postRequest_cases s with ⟨_, e⟩ | ⟨_, e⟩
    · exact .inl ⟨_, _, e⟩
    · exact .inr ⟨_, _, e⟩
  · rcases withdrawRequest_cases s with ⟨_, e⟩ | ⟨_, _, e⟩
    · exact .inl ⟨_, _, e⟩
    · exact .inr ⟨_, _, e⟩

/-- Everything the commands of a device step can do, outside the fatal state: the counter moves, and
either no fatal error occurs or the fatal state is entered (R221, R262). -/
theorem runStep_cases (cmds : List StepCmd) {s : State} (hf : s.fatal = none) :
    (∃ c i, runStep cmds s =
      { s with irq := i, fatal := some c, run := false, result := some (.fatal c) }) ∨
    ∃ i r, runStep cmds s = { s with irq := i, result := r } := by
  induction cmds generalizing s with
  | nil => exact .inr ⟨s.irq, s.result, rfl⟩
  | cons k ks ih =>
    simp only [runStep]
    rcases stepCommand_cases k s with ⟨c, i, e⟩ | ⟨i, r, e⟩
    · rw [e]; exact .inl ⟨c, i, rfl⟩
    · have hn : (stepCommand k s).fatal.isSome = false := by rw [e]; simp [hf]
      rw [hn, e]
      exact ih (s := { s with irq := i, result := r }) hf

/-- No device step is taken in the fatal state (R221, R262). -/
theorem deviceStep_fatal {u : Nat} {s : State} (h : s.fatal ≠ none) : deviceStep u s = .next s := by
  unfold deviceStep
  rw [if_neg (fun x => h x.2)]

/-- Everything an autonomous device step can do when a next state comes out: nothing, where no device
step is taken, or what `steppedTo` says of a drawn outcome (R221). -/
theorem deviceStep_next {u : Nat} {s t : State} (h : deviceStep u s = .next t) :
    t = s ∨ s.phase = .active ∧ s.fatal = none ∧ ∃ r d cmds, findUnit s.reg u = some r ∧
      stepOutcome s.params r s.draws = some (d, cmds) ∧ t = s.drew.steppedTo u d cmds := by
  unfold deviceStep at h
  split at h
  · next ha =>
    split at h
    · injection h with h; exact .inl h.symm
    · next r hr =>
      unfold stepRecord at h
      split at h
      · cases h
      · next d cmds hd =>
        injection h with h
        exact .inr ⟨ha.1, ha.2, r, d, cmds, hr, hd, by rw [← h, (findUnit_mem hr).2]⟩
  · injection h with h; exact .inl h.symm

/-- Everything an autonomous device step can change (R221). -/
theorem deviceStep_frame {u : Nat} {s t : State} (h : deviceStep u s = .next t) :
    ∃ irq fatal run result reg draws, t =
      { s with irq := irq, fatal := fatal, run := run, result := result, reg := reg, draws := draws } ∧
      (reg = s.reg ∨ ∃ v d, reg = updateUnit v (fun r => { r with dstate := d }) s.reg) := by
  rcases deviceStep_next h with rfl | ⟨_, _, r, d, cmds, _, _, rfl⟩
  · exact ⟨_, _, _, _, _, _, rfl, .inl rfl⟩
  · obtain ⟨i, f, r, q, h⟩ := runStep_frame cmds s.drew
    simp only [State.steppedTo, h]
    split
    · exact ⟨_, _, _, _, _, _, rfl, .inl rfl⟩
    · exact ⟨_, _, _, _, _, _, rfl, .inr ⟨_, _, rfl⟩⟩

end Sys2Proof.Machine
end

