-- ==== Sys2Proof/Laws/Image.lean ====
section
/-! SUPPORT. What saving and loading a core image do (R243 to R249). -/

namespace Sys2Proof.Machine

/-- The cells of a valid image are a memory in canonical form, within its size (R247). -/
theorem imageCells_wf {n lo : Nat} {l : List (Nat × Nat)} (h : imageCellsValid n lo l = true) :
    Memory.wfFrom lo (l.map fun e => (e.1, BitVec.ofNat 12 e.2)) = true ∧
    Memory.below n (l.map fun e => (e.1, BitVec.ofNat 12 e.2)) = true := by
  induction l generalizing lo with
  | nil => exact ⟨rfl, rfl⟩
  | cons e l ih =>
    obtain ⟨k, w⟩ := e
    simp only [imageCellsValid, Bool.and_eq_true, decide_eq_true_eq] at h
    obtain ⟨⟨⟨⟨h1, h2⟩, h3⟩, h4⟩, h5⟩ := h
    obtain ⟨a, b⟩ := ih h5
    constructor
    · simp only [List.map_cons, Memory.wfFrom, Bool.and_eq_true, decide_eq_true_eq]
      refine ⟨⟨h1, ?_⟩, a⟩
      intro e
      have := congrArg BitVec.toNat e
      simp [unlistedWord] at this
      omega
    · simp only [List.map_cons, Memory.below_cons, Bool.and_eq_true, decide_eq_true_eq]
      exact ⟨h2, b⟩

/-- Every word of a valid image is below 4096 and inside memory (R247). -/
theorem imageCells_mem {n lo : Nat} {l : List (Nat × Nat)} (h : imageCellsValid n lo l = true)
    {e : Nat × Nat} (he : e ∈ l) : e.2 < 4096 ∧ e.1 < n := by
  induction l generalizing lo with
  | nil => cases he
  | cons x l ih =>
    obtain ⟨k, w⟩ := x
    simp only [imageCellsValid, Bool.and_eq_true, decide_eq_true_eq] at h
    rcases List.mem_cons.1 he with rfl | he
    · exact ⟨h.1.2, h.1.1.1.2⟩
    · exact ih h.2 he

/-- The cells of a canonical memory are those of a valid image (R245). -/
theorem imageCellsValid_of_wf {n lo : Nat} {m : Memory} (h : Memory.wfFrom lo m = true)
    (hb : Memory.below n m = true) : imageCellsValid n lo (m.map fun c => (c.1, c.2.toNat)) = true := by
  induction m generalizing lo with
  | nil => rfl
  | cons c m ih =>
    obtain ⟨k, w⟩ := c
    simp only [Memory.wfFrom, Bool.and_eq_true, decide_eq_true_eq, Memory.below_cons] at h hb
    simp only [List.map_cons, imageCellsValid, Bool.and_eq_true, decide_eq_true_eq]
    refine ⟨⟨⟨⟨h.1.1, hb.1⟩, ?_⟩, w.isLt⟩, ih h.2 hb.2⟩
    exact Nat.pos_of_ne_zero fun e => h.1.2 (BitVec.eq_of_toNat_eq e)

/-- Loading the cells of a memory gives the memory back (R249). -/
theorem cells_roundTrip (m : Memory) :
    (m.map fun c => (c.1, c.2.toNat)).map (fun e : Nat × Nat => (e.1, BitVec.ofNat 12 e.2)) = m := by
  rw [List.map_map]
  conv => rhs; rw [← List.map_id m]
  apply List.map_congr_left
  rintro ⟨k, w⟩ _
  simp

/-- Loading the memory-extension fields changes them alone, and nothing where the image has none
(R244, R245). -/
theorem loadMeu_frame (s : State) (m : Option MeuContent) :
    ∃ ifr df ib sf uf ub ui, s.loadMeu m = { s with
      ifr := ifr, df := df, ib := ib, sf := sf, uf := uf, ub := ub, ui := ui } ∧
      (m = none → s.loadMeu m = s) := by
  cases m <;> exact ⟨_, _, _, _, _, _, _, rfl, by simp [State.loadMeu]⟩

/-- A valid content has the configured feature switch (R247). -/
theorem contentValid_ema {p : Params} {e : Ema} {c : ImageContent} (h : contentValid p e c = true) :
    c.ema = e := by
  simp only [contentValid, Bool.and_eq_true, decide_eq_true_eq] at h
  exact h.1.1.1.1.1.1.1.1.1.1.1.1.1

/-- Where the unit is absent a valid image has no memory-extension fields (R245, R247). -/
theorem imageMeuValid_off {m : Option MeuContent} (h : imageMeuValid .off m = true) : m = none := by
  cases m with
  | none => rfl
  | some m => cases h

/-- The content of a state that meets the invariant passes every check (R245, R247). -/
theorem imageContent_valid {s : State} (h : s.Inv) :
    contentValid s.params s.ema (imageContent s) = true := by
  obtain ⟨h1, h2, h3, h4, _, h6, _⟩ := h
  simp only [contentValid, Bool.and_eq_true, decide_eq_true_eq]
  refine ⟨⟨⟨⟨⟨⟨⟨⟨⟨⟨⟨⟨⟨rfl, rfl⟩, imageCellsValid_of_wf h1 h2⟩, s.ac.isLt⟩, s.l.isLt⟩, s.pc.isLt⟩,
    s.mq.isLt⟩, h3⟩, h4⟩, s.mb.isLt⟩, ?_⟩, ?_⟩, ?_⟩, h6⟩
  · show s.run.toNat < 2
    cases s.run <;> decide
  · unfold imageContent meuContent
    cases s.ema <;> simp only [imageMeuValid, Bool.and_eq_true, decide_eq_true_eq]
    exact ⟨⟨⟨⟨⟨⟨s.ifr.isLt, s.df.isLt⟩, s.ib.isLt⟩, s.sf.isLt⟩, s.uf.isLt⟩, s.ub.isLt⟩, s.ui.isLt⟩
  · show (istOfBits s.ist.ie.toNat s.ist.idef.toNat).isSome = true
    rw [istOfBits_bits]
    rfl

/-- Everything loading an image can do: the image is malformed and nothing but the result port changes,
or its content is valid and becomes the state's (R244, R247). -/
theorem loadImage_cases (s : State) (img : Image) :
    (∀ c, decodeImage s.params img = some c → contentValid s.params s.ema c = false) ∧
      s.loadImage img = s.answer (.err .imageMalformed) ∨
    ∃ c, decodeImage s.params img = some c ∧ contentValid s.params s.ema c = true ∧
      s.loadImage img = (s.loadContent c).answer .ok := by
  unfold State.loadImage
  split
  · next h => exact .inl ⟨by simp [h], rfl⟩
  · next c h =>
    split
    · next hv => exact .inr ⟨c, h, hv, rfl⟩
    · next hv => exact .inl ⟨fun x hx => by rw [h] at hx; injection hx with hx; subst hx; simpa using hv, rfl⟩

end Sys2Proof.Machine
end

