-- ==== Sys2Proof/Laws/Commands.lean ====
section
/-! SUPPORT. Everything one command can do, said once: the changes a command other than
`DEV_DISPATCH` makes, and what a dispatch handler, a dispatch and a step therefore keep. -/

namespace Sys2Proof.Machine

/-- The changes of the state that a command `i` other than `DEV_DISPATCH` can make. -/
inductive Change (i : Instr) (s : State) : State → Prop
  /-- the result port alone -/
  | answer (r : Result) : Change i s (s.answer r)
  /-- the working registers (R112 to R120) -/
  | registers (ac : Word) (l : Bit) (pc mq mb : Word) (sr ma : Nat) (run : Bool) (r : Result)
      (hf : s.fatal = none) (hsr : sr = s.sr ∨ sr < 2 ^ s.params.srWidth)
      (hma : ma = s.ma ∨ ma < 2 ^ maBits s.params.maWidth)
      (hrun : run = s.run ∨ run = false ∨ s.phase = .active) :
      Change i s { s with ac := ac, l := l, pc := pc, mq := mq, mb := mb, sr := sr, ma := ma,
                          run := run, result := some r }
  /-- the memory-extension unit, with EMA on (R142 to R144, R152 to R158) -/
  | fields (ifr df ib : Field) (sf : SaveField) (uf ub ui : Bit) (ist : Ist) (r : Result)
      (hf : s.fatal = none) (he : s.ema = .on) :
      Change i s { s with ifr := ifr, df := df, ib := ib, sf := sf, uf := uf, ub := ub, ui := ui,
                          ist := ist, result := some r }
  /-- the enable state, and the draw counter where it is drawn (R182 to R184) -/
  | controller (ist : Ist) (draws : Nat) (r : Result) (hf : s.fatal = none) :
      Change i s { s with ist := ist, draws := draws, result := some r }
  /-- a posted request (R180) -/
  | post (hf : s.fatal = none) : Change i s (postRequest s)
  /-- a withdrawn request (R181) -/
  | withdraw (hf : s.fatal = none) : Change i s (withdrawRequest s)
  /-- an accepted interrupt (R186) -/
  | taken (hf : s.fatal = none) : Change i s (s.takeInterrupt.answer (.okValue .taken))
  /-- one word of memory (R65) -/
  | store (a : Nat) (w : Word) (hf : s.fatal = none) (ha : a < memWords s.ema) :
      Change i s { s with mem := Memory.write s.mem a w, result := some .ok }
  /-- a new record (R211) -/
  | register (r : DeviceRecord) (hf : s.fatal = none) (hp : s.phase = .config)
      (hu : r.unit < s.params.unitCount) (hn : findUnit s.reg r.unit = none) :
      Change i s { s with reg := s.reg ++ [r], result := some .ok }
  /-- a mounted resource (R212) -/
  | mounted (u : Nat) (d : DState) (path : String) (hf : s.fatal = none) :
      Change i s { s.drew with
        reg := updateUnit u (fun r => { r with dstate := d, mounted := some path }) s.reg,
        result := some .ok }
  /-- a mount whose handler could not open the resource (R212) -/
  | notOpened (hf : s.fatal = none) : Change i s (s.drew.answer (.err .openFailed))
  /-- power-up of the devices (R214) -/
  | powerUp (argv : List String) (reg : List DeviceRecord) (n : Nat) (hf : s.fatal = none)
      (hd : drawEach (powerOutcome s.params .up argv) s.draws s.reg = .ok (reg, n)) :
      Change i s { s with reg := reg, draws := n, pwr := true, result := some .ok }
  /-- power-down (R215) -/
  | powerDown (reg : List DeviceRecord) (n : Nat)
      (hd : drawEach (powerOutcome s.params .down []) s.draws s.reg = .ok (reg, n)) :
      Change i s { s with reg := reg, draws := n, run := false, phase := .down, result := some .ok }
  /-- initialisation of the devices (R217) -/
  | init (reg : List DeviceRecord) (n : Nat) (hf : s.fatal = none)
      (hd : drawEach (initOutcome s.params) s.draws s.reg = .ok (reg, n)) :
      Change i s { s with reg := reg, draws := n, result := some .ok }
  /-- `SYS_CONFIGURE` (R240) -/
  | configure (e : Ema) (mem : Memory) (n : Nat) (hf : s.fatal = none) (hp : s.phase = .config)
      (hw : Memory.wf mem = true) (hb : Memory.below (memWords e) mem = true) :
      Change i s { s.clearMeu with ema := e, mem := mem, draws := n, result := some .ok }
  /-- `SYS_START` (R241) -/
  | start (hf : s.fatal = none) (hp : s.phase = .config) :
      Change i s { s with phase := .active, result := some .ok }
  /-- `SYS_RESET` (R302) -/
  | reset (reg : List DeviceRecord) (n : Nat) (hf : s.fatal = none)
      (hd : drawEach (initOutcome s.params) s.draws s.reg = .ok (reg, n)) :
      Change i s { s.clearForReset with reg := reg, draws := n, result := some .ok }
  /-- `SNAP_LOAD` of a valid image (R244) -/
  | load (img : Image) (c : ImageContent) (hi : i = .snapLoad img) (hf : s.fatal = none)
      (hv : contentValid s.params s.ema c = true) :
      Change i s ((s.loadContent c).answer .ok)

/-- An operation of the memory-extension unit on the fields is one of the changes. -/
theorem Change.ofIfEma {i : Instr} {s : State} (hf : s.fatal = none) {f : State → State}
    (h : s.ema = .on → ∃ ifr df ib sf uf ub ui ist, f s = { s with
      ifr := ifr, df := df, ib := ib, sf := sf, uf := uf, ub := ub, ui := ui, ist := ist }) :
    Change i s ((s.ifEma f).answer .ok) := by
  rcases State.ifEma_cases s f with ⟨_, e⟩ | ⟨he, e⟩
  · rw [e]; exact .answer .ok
  · obtain ⟨_, _, _, _, _, _, _, _, h'⟩ := h he
    rw [e, h']; exact .fields _ _ _ _ _ _ _ _ _ hf he

/-- Every command but `DEV_DISPATCH` that gives a next state makes one of the changes. -/
theorem exec_change {i : Instr} {s t : State} (hi : ∀ u c, i ≠ .devDispatch u c)
    (h : exec i s = .next t) : Change i s t := by
  cases i
  case devDispatch u c => exact absurd rfl (hi u c)
  all_goals
    simp only [exec,
      execRdAc, execRdPc, execRdMq, execRdSr, execRdMa, execRdMb, execRdL, execRdRun, execRdLac,
      execWrAc, execWrPc, execWrMq, execWrSr, execWrMa, execWrMb, execWrL, execWrRun, execWrLac,
      execRdIf, execRdDf, execRdIb, execRdSf, execRdUf, execRdUb, execRdUi, execXaInstr,
      execXaData, execBranchOrCall, execIntEntry, execIntReturn, execWrIf, execWrDf, execWrIb,
      execWrSf, execWrUf, execWrUb, execWrUi, execIntPost, execIntWithdraw, execIntDisable,
      execIntEnableDeferred, execIntCommit, execIntAcceptable, execPoll, execRdIntState,
      execRdIntCount, execMemRd, execMemWr, execDevRegister, execDevMount, execDevMountLabel,
      execDevPowerUp, execDevPowerDown, execDevInitAll, execSysConfigure, execSysStart,
      execSysReset, execSnapSave, execSnapLoad] at h
    rcases command_next h with ⟨c, _, _, rfl⟩ | ⟨hs, hp, h1⟩
    · exact .answer _
  -- the reads and SNAP_SAVE
  case rdAc | rdPc | rdMq | rdSr | rdMa | rdMb | rdL | rdRun | rdLac | rdIf | rdDf | rdIb | rdSf |
      rdUf | rdUb | rdUi | intAcceptable | rdIntState | rdIntCount | snapSave =>
    injection h1 with h1; subst h1; exact .answer _
  case xaInstr | xaData | memRd =>
    split at h1
    · injection h1 with h1; subst h1; exact .answer _
    · cases h1
  case devPowerDown =>
    obtain ⟨reg, n, hd, h2⟩ := forEachDevice_next h1
    injection h2 with h2; subst h2; exact .powerDown _ _ hd
  -- the others run outside the fatal state only
  all_goals have hf : s.fatal = none := hs.resolve_right (by simp [survivesFatal])
  case wrAc | wrPc | wrMq | wrMb | wrL | wrLac =>
    injection h1 with h1; subst h1
    exact .registers _ _ _ _ _ _ _ _ _ hf (.inl rfl) (.inl rfl) (.inl rfl)
  case wrSr =>
    injection h1 with h1; subst h1
    exact .registers _ _ _ _ _ _ _ _ _ hf (.inr (maskTo_lt _ _)) (.inl rfl) (.inl rfl)
  case wrMa =>
    injection h1 with h1; subst h1
    exact .registers _ _ _ _ _ _ _ _ _ hf (.inl rfl) (.inr (maskTo_lt _ _)) (.inl rfl)
  case wrRun =>
    split at h1
    · cases h1
    · next hw =>
      injection h1 with h1; subst h1
      refine .registers _ _ _ _ _ _ _ _ _ hf (.inl rfl) (.inl rfl) (.inr ?_)
      by_cases ha : s.phase = .active
      · exact .inr ha
      · exact .inl (Bool.eq_false_iff.2 fun hb => hw ⟨hb, ha⟩)
  case branchOrCall | intEntry =>
    injection h1 with h1; subst h1
    exact .ofIfEma hf fun _ => ⟨_, _, _, _, _, _, _, _, rfl⟩
  case intReturn | wrIf | wrDf | wrIb | wrSf | wrUf | wrUb | wrUi =>
    split at h1
    · injection h1 with h1; subst h1
      exact .ofIfEma hf fun _ => ⟨_, _, _, _, _, _, _, _, rfl⟩
    · cases h1
  case intPost => injection h1 with h1; subst h1; exact .post hf
  case intWithdraw => injection h1 with h1; subst h1; exact .withdraw hf
  case intDisable => injection h1 with h1; subst h1; exact .controller _ _ _ hf
  case intEnableDeferred =>
    injection h1 with h1; subst h1
    obtain ⟨_, _, e⟩ := enableDeferred_frame s
    rw [e]; exact .controller _ _ _ hf
  case intCommit =>
    injection h1 with h1; subst h1
    obtain ⟨_, e⟩ := commitEnable_frame s
    rw [e]; exact .controller _ _ _ hf
  case poll =>
    split at h1
    · injection h1 with h1; subst h1; exact .taken hf
    · injection h1 with h1; subst h1
      obtain ⟨_, e⟩ := commitEnable_frame s
      rw [e]; exact .controller _ _ _ hf
  case memWr =>
    split at h1
    · next ha =>
      injection h1 with h1; subst h1
      exact .store _ _ hf (inMemory_toNat ha)
    · cases h1
  case devRegister u nm lbl dev =>
    split at h1
    · injection h1 with h1; subst h1; exact .answer _
    · split at h1
      · injection h1 with h1; subst h1; exact .answer _
      · next hu _ hn =>
        injection h1 with h1; subst h1
        refine .register ⟨u, nm, lbl, dev, none, _⟩ hf ?_ (by simpa using hu) hn
        simp only [permits, decide_eq_true_eq] at hp; exact hp.2
  case devMount | devMountLabel =>
    split at h1
    · injection h1 with h1; subst h1; exact .answer _
    · rcases mountRecord_next h1 with ⟨d, rfl⟩ | rfl
      · exact .mounted _ _ _ hf
      · exact .notOpened hf
  case devPowerUp =>
    split at h1
    · cases h1
    · obtain ⟨reg, n, hd, h2⟩ := forEachDevice_next h1
      injection h2 with h2; subst h2; exact .powerUp _ _ _ hf hd
  case devInitAll =>
    obtain ⟨reg, n, hd, h2⟩ := forEachDevice_next h1
    injection h2 with h2; subst h2; exact .init _ _ hf hd
  case sysConfigure e =>
    injection h1 with h1; subst h1
    obtain ⟨mem, n, e', hw, hb⟩ := freshMemory_frame e s.clearMeu
    rw [e']
    refine .configure e mem n hf ?_ hw hb
    simp only [permits, decide_eq_true_eq] at hp; exact hp.2
  case sysStart =>
    injection h1 with h1; subst h1
    refine .start hf ?_
    simp only [permits, decide_eq_true_eq] at hp; exact hp.2
  case sysReset =>
    obtain ⟨reg, n, hd, h2⟩ := forEachDevice_next h1
    injection h2 with h2; subst h2; exact .reset _ _ hf hd
  case snapLoad img =>
    injection h1 with h1; subst h1
    rcases loadImage_cases s img with ⟨_, e⟩ | ⟨c, _, hv, e⟩
    · rw [e]; exact .answer _
    · rw [e]; exact .load img c rfl hf hv

/-- No command sets `RUN` outside `PHASE = Active` but `SNAP_LOAD` (R119, R244). -/
theorem exec_run {i : Instr} {s t : State} (hi : ∀ img, i ≠ .snapLoad img) (ha : s.phase ≠ .active)
    (h : exec i s = .next t) : t.run = s.run ∨ t.run = false := by
  by_cases hd : ∃ u c, i = .devDispatch u c
  · obtain ⟨u, c, rfl⟩ := hd
    simp only [exec, execDevDispatch] at h
    rcases command_next h with ⟨_, _, _, rfl⟩ | ⟨_, hp, _⟩
    · exact .inl rfl
    · simp only [permits, decide_eq_true_eq] at hp; exact absurd hp.2 ha
  · have hx := exec_change (fun u c e => hd ⟨u, c, e⟩) h
    cases hx
    case registers hrun => exact hrun.imp_right (·.resolve_right ha)
    case load img _ e _ _ => exact absurd e (hi img)
    case post =>
      rcases postRequest_cases s with ⟨_, e⟩ | ⟨_, e⟩ <;> rw [e] <;> simp [State.raiseFatal]
    case withdraw =>
      rcases withdrawRequest_cases s with ⟨_, e⟩ | ⟨_, _, e⟩ <;> rw [e] <;> simp [State.raiseFatal]
    case taken =>
      obtain ⟨_, _, _, _, _, _, _, _, e⟩ := takeInterrupt_frame s
      rw [e]; exact .inl rfl
    case powerDown => exact .inr rfl
    all_goals exact .inl rfl

/-- What a command of a dispatch handler does: it is a command of the core, possibly flagged (R317),
or a post or a withdrawal; it is no dispatch and no poll (R84, R216). -/
theorem handlerCommand_next {k : Instr} {s t : State} (h : handlerCommand k s = .next t) :
    (∀ u c, k ≠ .devDispatch u c) ∧ k ≠ .poll ∧
      (exec k s = .next t ∨ exec k s.flag = .next t ∨ t = postRequest s ∨ t = withdrawRequest s) := by
  cases k <;> first
    | exact ⟨(fun _ _ h => by cases h), (fun h => by cases h), .inl h⟩
    | exact ⟨(fun _ _ h => by cases h), (fun h => by cases h), .inr (.inl h)⟩
    | exact ⟨(fun _ _ h => by cases h), (fun h => by cases h),
        .inr (.inr (.inl (by injection h with h; exact h.symm)))⟩
    | exact ⟨(fun _ _ h => by cases h), (fun h => by cases h),
        .inr (.inr (.inr (by injection h with h; exact h.symm)))⟩
    | cases h

/-- What every change keeps, and posting, withdrawing, flagging, drawing, a new device state and a
fatal error keep, every command keeps, a dispatch too. -/
theorem exec_keeps {P : State → Prop} (hc : ∀ i s t, Change i s t → P s → P t)
    (hp : ∀ s, P s → P (postRequest s)) (hw : ∀ s, P s → P (withdrawRequest s))
    (hflag : ∀ s, P s → P s.flag) (hdrew : ∀ s, P s → P s.drew)
    (hd : ∀ u d s, P s → P (s.setDState u d)) (hfat : ∀ c s, P s → P (s.raiseFatal c))
    {i : Instr} {s t : State} (hs : P s) (h : exec i s = .next t) : P t := by
  by_cases hi : ∃ u c, i = .devDispatch u c
  · obtain ⟨u, c, rfl⟩ := hi
    simp only [exec, execDevDispatch] at h
    rcases command_next h with ⟨_, _, _, rfl⟩ | ⟨_, _, h1⟩
    · exact hc (.devDispatch u c) _ _ (.answer _) hs
    · split at h1
      · split at h1
        · injection h1 with h1; subst h1; exact hfat _ _ hs
        · obtain ⟨d, cmds, v, _, h3, h4⟩ := dispatchTo_next h1
          have hv : P v := by
            refine runHandler_keeps (P := P) (fun k _ a b ha hab => ?_) (hdrew _ hs) h3
            obtain ⟨x, _, y | y | y | y⟩ := handlerCommand_next hab
            · exact hc _ _ _ (exec_change x y) ha
            · exact hc _ _ _ (exec_change x y) (hflag _ ha)
            · exact y ▸ hp _ ha
            · exact y ▸ hw _ ha
          rcases h4 with ⟨_, rfl⟩ | ⟨_, rfl⟩
          · exact hv
          · exact hc (.devDispatch u c) _ _ (.answer _) (hd _ _ _ hv)
      · cases h1
  · exact hc _ _ _ (exec_change (fun u c e => hi ⟨u, c, e⟩) h) hs

/-- What taking an event off the port, every command and every device step keep, a step keeps. -/
theorem step_keeps {P : State → Prop}
    (hb : ∀ s rest a, P s → P { s with inbox := rest, agent := a })
    (he : ∀ i s t, P s → exec i s = .next t → P t) (hd : ∀ u s t, P s → deviceStep u s = .next t → P t)
    {s t : State} (hs : P s) (h : step s = .next t) : P t := by
  unfold step fetch at h
  split at h
  · injection h with h; exact h ▸ hs
  · next hx =>
    split at hx
    · cases hx
    · cases hx
    · split at hx
      · cases hx
      · injection hx with h1 h2; subst h1; subst h2
        exact he _ _ _ (hb _ _ _ hs) h
  · cases h
  · next hx =>
    split at hx
    · cases hx
    · injection hx with h1 h2; subst h1; subst h2
      exact hd _ _ _ (hb _ _ s.agent hs) h
    · split at hx <;> cases hx

end Sys2Proof.Machine
end

