-- ==== Sys2Proof/Laws/PerInstr.lean ====
section
/-! SUPPORT. Statements made per instruction: the decoder gives an instruction back from its
encoding (R89). -/

namespace Sys2Proof.Laws

/-- The decoder gives the instruction back from its encoding (R89). -/
def RoundTrip.Statement (i : Instr) : Prop := decode (encode i) = .ok i

theorem RoundTrip.rdAc : RoundTrip.Statement .rdAc := rfl
theorem RoundTrip.rdPc : RoundTrip.Statement .rdPc := rfl
theorem RoundTrip.rdMq : RoundTrip.Statement .rdMq := rfl
theorem RoundTrip.rdSr : RoundTrip.Statement .rdSr := rfl
theorem RoundTrip.rdMa : RoundTrip.Statement .rdMa := rfl
theorem RoundTrip.rdMb : RoundTrip.Statement .rdMb := rfl
theorem RoundTrip.rdL : RoundTrip.Statement .rdL := rfl
theorem RoundTrip.rdRun : RoundTrip.Statement .rdRun := rfl
theorem RoundTrip.rdLac : RoundTrip.Statement .rdLac := rfl
theorem RoundTrip.wrAc (v : Int) : RoundTrip.Statement (.wrAc v) := rfl
theorem RoundTrip.wrPc (v : Int) : RoundTrip.Statement (.wrPc v) := rfl
theorem RoundTrip.wrMq (v : Int) : RoundTrip.Statement (.wrMq v) := rfl
theorem RoundTrip.wrSr (v : Int) : RoundTrip.Statement (.wrSr v) := rfl
theorem RoundTrip.wrMa (v : Int) : RoundTrip.Statement (.wrMa v) := rfl
theorem RoundTrip.wrMb (v : Int) : RoundTrip.Statement (.wrMb v) := rfl
theorem RoundTrip.wrL (v : Int) : RoundTrip.Statement (.wrL v) := rfl
theorem RoundTrip.wrRun (v : Int) : RoundTrip.Statement (.wrRun v) := rfl
theorem RoundTrip.wrLac (v : Int) : RoundTrip.Statement (.wrLac v) := rfl
theorem RoundTrip.rdIf : RoundTrip.Statement .rdIf := rfl
theorem RoundTrip.rdDf : RoundTrip.Statement .rdDf := rfl
theorem RoundTrip.rdIb : RoundTrip.Statement .rdIb := rfl
theorem RoundTrip.rdSf : RoundTrip.Statement .rdSf := rfl
theorem RoundTrip.rdUf : RoundTrip.Statement .rdUf := rfl
theorem RoundTrip.rdUb : RoundTrip.Statement .rdUb := rfl
theorem RoundTrip.rdUi : RoundTrip.Statement .rdUi := rfl
theorem RoundTrip.xaInstr (a : Nat) : RoundTrip.Statement (.xaInstr a) := rfl
theorem RoundTrip.xaData (a : Nat) : RoundTrip.Statement (.xaData a) := rfl
theorem RoundTrip.branchOrCall : RoundTrip.Statement .branchOrCall := rfl
theorem RoundTrip.intEntry : RoundTrip.Statement .intEntry := rfl
theorem RoundTrip.intReturn (f g : Nat) : RoundTrip.Statement (.intReturn f g) := rfl
theorem RoundTrip.wrIf (f : Nat) : RoundTrip.Statement (.wrIf f) := rfl
theorem RoundTrip.wrDf (f : Nat) : RoundTrip.Statement (.wrDf f) := rfl
theorem RoundTrip.wrIb (f : Nat) : RoundTrip.Statement (.wrIb f) := rfl
theorem RoundTrip.wrSf (v : Nat) : RoundTrip.Statement (.wrSf v) := rfl
theorem RoundTrip.wrUf (b : Nat) : RoundTrip.Statement (.wrUf b) := rfl
theorem RoundTrip.wrUb (b : Nat) : RoundTrip.Statement (.wrUb b) := rfl
theorem RoundTrip.wrUi (b : Nat) : RoundTrip.Statement (.wrUi b) := rfl
theorem RoundTrip.intPost : RoundTrip.Statement .intPost := rfl
theorem RoundTrip.intWithdraw : RoundTrip.Statement .intWithdraw := rfl
theorem RoundTrip.intDisable : RoundTrip.Statement .intDisable := rfl
theorem RoundTrip.intEnableDeferred : RoundTrip.Statement .intEnableDeferred := rfl
theorem RoundTrip.intCommit : RoundTrip.Statement .intCommit := rfl
theorem RoundTrip.intAcceptable : RoundTrip.Statement .intAcceptable := rfl
theorem RoundTrip.poll : RoundTrip.Statement .poll := rfl
theorem RoundTrip.rdIntState : RoundTrip.Statement .rdIntState := rfl
theorem RoundTrip.rdIntCount : RoundTrip.Statement .rdIntCount := rfl
theorem RoundTrip.memRd (xa : Nat) : RoundTrip.Statement (.memRd xa) := rfl
theorem RoundTrip.memWr (xa : Nat) (v : Int) : RoundTrip.Statement (.memWr xa v) := rfl
theorem RoundTrip.devRegister (u : Nat) (nm lbl : String) (dev : DevId) : RoundTrip.Statement (.devRegister u nm lbl dev) := rfl
theorem RoundTrip.devMount (u : Nat) (path : String) : RoundTrip.Statement (.devMount u path) := rfl
theorem RoundTrip.devMountLabel (lbl path : String) : RoundTrip.Statement (.devMountLabel lbl path) := rfl
theorem RoundTrip.devDispatch (u c : Nat) : RoundTrip.Statement (.devDispatch u c) := rfl
theorem RoundTrip.devPowerUp (argv : List String) : RoundTrip.Statement (.devPowerUp argv) := rfl
theorem RoundTrip.devPowerDown : RoundTrip.Statement .devPowerDown := rfl
theorem RoundTrip.devInitAll : RoundTrip.Statement .devInitAll := rfl
theorem RoundTrip.sysConfigure (ema : Ema) : RoundTrip.Statement (.sysConfigure ema) := rfl
theorem RoundTrip.sysStart : RoundTrip.Statement .sysStart := rfl
theorem RoundTrip.sysReset : RoundTrip.Statement .sysReset := rfl
theorem RoundTrip.snapSave : RoundTrip.Statement .snapSave := rfl
theorem RoundTrip.snapLoad (img : Image) : RoundTrip.Statement (.snapLoad img) := rfl

end Sys2Proof.Laws
end

