-- ==== Sys2Proof/Tests/Slice0.lean ====
section
/-! SUPPORT. Tests: the operand checks, the command map written out bit by bit (R89), one step on small
states with results taken from the spec's test vectors (95_test_vectors.md), and a witness of the
hypotheses of every statement. -/

namespace Sys2Proof.Tests
open Sys2Proof.Machine Sys2Proof.Claims

/-! ### Operand ranges (R87): one ill-formed term for each check, refused -/

theorem test_wellFormed_refuses :
    (Instr.xaInstr 4096).wellFormed 32768 3 = false ∧ (Instr.xaData 4096).wellFormed 32768 3 = false ∧
    (Instr.intReturn 8 0).wellFormed 32768 3 = false ∧ (Instr.intReturn 0 8).wellFormed 32768 3 = false ∧
    (Instr.wrIf 8).wellFormed 32768 3 = false ∧ (Instr.wrDf 8).wellFormed 32768 3 = false ∧
    (Instr.wrIb 8).wellFormed 32768 3 = false ∧ (Instr.wrSf 128).wellFormed 32768 3 = false ∧
    (Instr.wrUf 2).wellFormed 32768 3 = false ∧ (Instr.wrUb 2).wellFormed 32768 3 = false ∧
    (Instr.wrUi 2).wellFormed 32768 3 = false ∧ (Instr.memRd 4096).wellFormed 4096 3 = false ∧
    (Instr.memWr 32768 0).wellFormed 32768 3 = false ∧
    (Instr.devDispatch 3 8).wellFormed 32768 3 = false ∧ (Instr.xaData (-1)).wellFormed 32768 3 = false ∧
    (Instr.wrDf (-1)).wellFormed 32768 3 = false ∧ (Instr.memRd (-1)).wellFormed 32768 3 = false := by
  decide

theorem test_wellFormed_accepts :
    (Instr.xaInstr 4095).wellFormed 32768 3 = true ∧ (Instr.intReturn 7 7).wellFormed 32768 3 = true ∧
    (Instr.wrSf 127).wellFormed 32768 3 = true ∧ (Instr.wrUf 1).wellFormed 32768 3 = true ∧
    (Instr.memRd 32767).wellFormed 32768 3 = true ∧ (Instr.memWr 4095 (-1)).wellFormed 4096 3 = true ∧
    (Instr.devDispatch 99 7).wellFormed 32768 3 = true ∧ (Instr.wrAc (-1)).wellFormed 4096 3 = true := by
  decide

/-! ### The command map (R89), the selector written bit by bit -/

/-- Operand ports that carry a different value for every name. -/
def ports : Ports :=
  { v := -3, a := 0o200, f := 2, g := 5, b := 1, s := 0o152, xa := 0o20200, u := 3, c := 6,
    nm := "console", lbl := "tty", path := "/dev/tty", argv := ["x"], dev := 7, ema := .on,
    img := [0x5A] }

theorem test_decode_registerReads :
    decode ⟨0b0000000, ports⟩ = .ok .rdAc ∧
    decode ⟨0b0000001, ports⟩ = .ok .rdPc ∧
    decode ⟨0b0000010, ports⟩ = .ok .rdMq ∧
    decode ⟨0b0000011, ports⟩ = .ok .rdSr ∧
    decode ⟨0b0000100, ports⟩ = .ok .rdMa ∧
    decode ⟨0b0000101, ports⟩ = .ok .rdMb ∧
    decode ⟨0b0000110, ports⟩ = .ok .rdL ∧
    decode ⟨0b0000111, ports⟩ = .ok .rdRun ∧
    decode ⟨0b0001000, ports⟩ = .ok .rdLac := by
  decide

theorem test_decode_registerWrites :
    decode ⟨0b0010000, ports⟩ = .ok (.wrAc (-3)) ∧
    decode ⟨0b0010001, ports⟩ = .ok (.wrPc (-3)) ∧
    decode ⟨0b0010010, ports⟩ = .ok (.wrMq (-3)) ∧
    decode ⟨0b0010011, ports⟩ = .ok (.wrSr (-3)) ∧
    decode ⟨0b0010100, ports⟩ = .ok (.wrMa (-3)) ∧
    decode ⟨0b0010101, ports⟩ = .ok (.wrMb (-3)) ∧
    decode ⟨0b0010110, ports⟩ = .ok (.wrL (-3)) ∧
    decode ⟨0b0010111, ports⟩ = .ok (.wrRun (-3)) ∧
    decode ⟨0b0011000, ports⟩ = .ok (.wrLac (-3)) := by
  decide

theorem test_decode_fieldReads :
    decode ⟨0b0100000, ports⟩ = .ok .rdIf ∧
    decode ⟨0b0100001, ports⟩ = .ok .rdDf ∧
    decode ⟨0b0100010, ports⟩ = .ok .rdIb ∧
    decode ⟨0b0100011, ports⟩ = .ok .rdSf ∧
    decode ⟨0b0100100, ports⟩ = .ok .rdUf ∧
    decode ⟨0b0100101, ports⟩ = .ok .rdUb ∧
    decode ⟨0b0100110, ports⟩ = .ok .rdUi := by
  decide

theorem test_decode_fieldOperations :
    decode ⟨0b0101000, ports⟩ = .ok (.xaInstr 0o200) ∧
    decode ⟨0b0101001, ports⟩ = .ok (.xaData 0o200) ∧
    decode ⟨0b0101010, ports⟩ = .ok .branchOrCall ∧
    decode ⟨0b0101011, ports⟩ = .ok .intEntry ∧
    decode ⟨0b0101100, ports⟩ = .ok (.intReturn 2 5) := by
  decide

theorem test_decode_fieldWrites :
    decode ⟨0b0110000, ports⟩ = .ok (.wrIf 2) ∧
    decode ⟨0b0110001, ports⟩ = .ok (.wrDf 2) ∧
    decode ⟨0b0110010, ports⟩ = .ok (.wrIb 2) ∧
    decode ⟨0b0110011, ports⟩ = .ok (.wrSf 0o152) ∧
    decode ⟨0b0110100, ports⟩ = .ok (.wrUf 1) ∧
    decode ⟨0b0110101, ports⟩ = .ok (.wrUb 1) ∧
    decode ⟨0b0110110, ports⟩ = .ok (.wrUi 1) := by
  decide

theorem test_decode_controller :
    decode ⟨0b1000000, ports⟩ = .ok .intPost ∧
    decode ⟨0b1000001, ports⟩ = .ok .intWithdraw ∧
    decode ⟨0b1000010, ports⟩ = .ok .intDisable ∧
    decode ⟨0b1000011, ports⟩ = .ok .intEnableDeferred ∧
    decode ⟨0b1000100, ports⟩ = .ok .intCommit ∧
    decode ⟨0b1000101, ports⟩ = .ok .intAcceptable ∧
    decode ⟨0b1000110, ports⟩ = .ok .poll ∧
    decode ⟨0b1000111, ports⟩ = .ok .rdIntState ∧
    decode ⟨0b1001000, ports⟩ = .ok .rdIntCount := by
  decide

theorem test_decode_memory :
    decode ⟨0b1010000, ports⟩ = .ok (.memRd 0o20200) ∧
    decode ⟨0b1010001, ports⟩ = .ok (.memWr 0o20200 (-3)) := by
  decide

theorem test_decode_registry :
    decode ⟨0b1100000, ports⟩ = .ok (.devRegister 3 "console" "tty" 7) ∧
    decode ⟨0b1100001, ports⟩ = .ok (.devMount 3 "/dev/tty") ∧
    decode ⟨0b1100010, ports⟩ = .ok (.devMountLabel "tty" "/dev/tty") ∧
    decode ⟨0b1100011, ports⟩ = .ok (.devDispatch 3 6) ∧
    decode ⟨0b1100100, ports⟩ = .ok (.devPowerUp ["x"]) ∧
    decode ⟨0b1100101, ports⟩ = .ok .devPowerDown ∧
    decode ⟨0b1100110, ports⟩ = .ok .devInitAll := by
  decide

theorem test_decode_host :
    decode ⟨0b1110000, ports⟩ = .ok (.sysConfigure .on) ∧
    decode ⟨0b1110001, ports⟩ = .ok .sysStart ∧
    decode ⟨0b1110010, ports⟩ = .ok .sysReset ∧
    decode ⟨0b1110011, ports⟩ = .ok .snapSave ∧
    decode ⟨0b1110100, ports⟩ = .ok (.snapLoad [0x5A]) := by
  decide

theorem test_decode_reserved :
    decode ⟨0b0001001, ports⟩ = .error (.reserved 0x09) ∧
    decode ⟨0b0001111, ports⟩ = .error (.reserved 0x0F) ∧
    decode ⟨0b0011001, ports⟩ = .error (.reserved 0x19) ∧
    decode ⟨0b0011111, ports⟩ = .error (.reserved 0x1F) ∧
    decode ⟨0b0100111, ports⟩ = .error (.reserved 0x27) ∧
    decode ⟨0b0101101, ports⟩ = .error (.reserved 0x2D) ∧
    decode ⟨0b0101111, ports⟩ = .error (.reserved 0x2F) ∧
    decode ⟨0b0110111, ports⟩ = .error (.reserved 0x37) ∧
    decode ⟨0b0111111, ports⟩ = .error (.reserved 0x3F) ∧
    decode ⟨0b1001001, ports⟩ = .error (.reserved 0x49) ∧
    decode ⟨0b1001111, ports⟩ = .error (.reserved 0x4F) ∧
    decode ⟨0b1010010, ports⟩ = .error (.reserved 0x52) ∧
    decode ⟨0b1011111, ports⟩ = .error (.reserved 0x5F) ∧
    decode ⟨0b1100111, ports⟩ = .error (.reserved 0x67) ∧
    decode ⟨0b1101111, ports⟩ = .error (.reserved 0x6F) ∧
    decode ⟨0b1110101, ports⟩ = .error (.reserved 0x75) ∧
    decode ⟨0b1111111, ports⟩ = .error (.reserved 0x7F) := by
  decide

/-- The selector has seven wires: a word with bit 7 set is no selector (R87). -/
theorem test_decode_sevenWires :
    decodeTableWord 8 0x80 = none ∧ decodeTableWord 7 0x46 = some .poll ∧
    decodeTableWord 6 0x46 = none := by decide

/-! ### Small states -/

/-- A device written out as a table. -/
def tty : DeviceTable :=
  { init0 := 0
    mount := [⟨none, some "/dev/tty", .mounted 5⟩, ⟨none, some "bad", .openFailed⟩]
    dispatch := [⟨none, some 6, 7, [.wrAc 0x41, .intWithdraw]⟩, ⟨none, some 1, 0, [.rdAc, .poll]⟩,
                 ⟨none, some 2, 8, [.rdAc]⟩]
    power := [⟨none, none, 2⟩]
    init := [⟨none, 3⟩]
    step := [⟨some 0, 4, [.post]⟩, ⟨some 9, 1, [.withdraw]⟩] }

def params : Params := { Params.default with devices := [(7, tty)] }

def console : DeviceRecord := ⟨3, "console", "tty", 7, some "a", 0⟩

/-- The core, running, in `PHASE = Active`, with one device. -/
def coreAt (e : Ema) : State :=
  { State.reset with
    params := params, ema := e, run := true, phase := .active, reg := [console], agent := .core }

/-- The host, halted, in `PHASE = Active`. -/
def hostAt (e : Ema) : State := { coreAt e with run := false, agent := .host }

/-- The host in `PHASE = Config`. -/
def configAt (e : Ema) : State := { hostAt e with phase := .config }

/-- A device outside dispatch. -/
def deviceAt (n : Nat) : State := { coreAt .on with agent := .device, irq := n }

/-- The fatal state (R262). -/
def fatalAt (a : Agent) : State :=
  { coreAt .on with agent := a, ac := 0o17, run := false, fatal := some .dispatchUnregistered }

/-- One field of the next state, if there is one. -/
def field {α : Type} (f : State → α) : Outcome → Option α
  | .next t => some (f t)
  | .fault _ => none
  | .refused _ => none

/-- The result of a command, if it completes. -/
def answer (o : Outcome) : Option (Option Result) := field State.result o

/-- The number a read returns. -/
def number (n : Nat) : Option (Option Result) := some (some (.okValue (.num n)))

def okResult : Option (Option Result) := some (some .ok)

/-- The memory-extension fields, in the order of R31 to R37. -/
def fields (t : State) : List Nat :=
  [t.ifr.toNat, t.df.toNat, t.ib.toNat, t.sf.toNat, t.uf.toNat, t.ub.toNat, t.ui.toNat]

/-- The reason of a refusal, if it is one. -/
def refusal : Outcome → Option Refusal
  | .next _ => none
  | .fault _ => none
  | .refused r => some r

/-- The reason of a fault, if it is one. -/
def faultOf : Outcome → Option Fault
  | .next _ => none
  | .fault f => some f
  | .refused _ => none

/-! ### Register File (95, W1 and 2.1) -/

theorem test_wrAc : [0, 4095, 4096, 4097, -1, -4096, -4097, 5000, 123456789].map
    (fun v => field State.ac (exec (.wrAc v) (coreAt .on))) =
    [some 0, some 4095, some 0, some 1, some 4095, some 0, some 4095, some 904, some 3349] := by decide

theorem test_wrPc : field State.pc (exec (.wrPc 4096) (coreAt .on)) = some 0 ∧
    field State.pc (exec (.wrPc (-1)) (coreAt .on)) = some 4095 := by decide

theorem test_wrMq : field State.mq (exec (.wrMq 5000) (coreAt .on)) = some 904 := by decide

theorem test_wrMb : field State.mb (exec (.wrMb (-4097)) (coreAt .on)) = some 4095 := by decide

theorem test_wrMa : field State.ma (exec (.wrMa 4100) (coreAt .on)) = some 4 ∧
    field State.ma (exec (.wrMa 4100) { coreAt .on with params := { params with maWidth := .w15 } }) =
      some 4100 := by decide

theorem test_wrSr : field State.sr (exec (.wrSr 5000) (hostAt .on)) = some 904 ∧
    field State.sr (exec (.wrSr 5000) { hostAt .on with run := true }) = some 904 ∧
    refusal (exec (.wrSr 1) (coreAt .on)) = some .permission := by decide

theorem test_wrL : [0, 2, -1].map (fun v => field State.l (exec (.wrL v) (coreAt .on))) =
    [some 0, some 1, some 1] := by decide

theorem test_wrLac : [8191, 8192, 4096, -1].map
    (fun v => field (fun t => (t.l, t.ac)) (exec (.wrLac v) (coreAt .on))) =
    [some (1, 4095), some (0, 0), some (1, 0), some (1, 4095)] := by decide

theorem test_wrRun : refusal (exec (.wrRun 1) (configAt .on)) = some .permission ∧
    field State.run (exec (.wrRun 0) { hostAt .on with run := true }) = some false ∧
    field State.run (exec (.wrRun (-2)) (hostAt .on)) = some true := by decide

theorem test_hostWriteWhileRunning :
    refusal (exec (.wrAc 7) { hostAt .on with run := true }) = some .permission := by decide

theorem test_rdLac :
    answer (exec .rdLac { coreAt .on with l := 1, ac := 1 }) = number 4097 ∧
    answer (exec .rdLac { coreAt .on with l := 0, ac := 0o7777 }) = number 4095 := by decide

/-- Each read answers its own register (R103 to R110). -/
theorem test_reads :
    let s := { coreAt .on with ac := 1, pc := 2, mq := 3, sr := 4, ma := 5, mb := 6, l := 1 }
    [Instr.rdAc, .rdPc, .rdMq, .rdSr, .rdMa, .rdMb, .rdL, .rdRun].map (fun i => answer (exec i s)) =
      [number 1, number 2, number 3, number 4, number 5, number 6, number 1, number 1] := by decide

/-! ### Memory (95, 2.2) -/

theorem test_memWr : field (fun t => Memory.read t.mem 5) (exec (.memWr 5 (-2)) (coreAt .on)) =
    some 0o7776 ∧
    field State.mem (exec (.memWr 32767 4096) { coreAt .on with mem := [(5, 1), (32767, 9)] }) =
      some [(5, 1)] := by decide

theorem test_memRd : refusal (exec (.memRd 4096) (coreAt .off)) = some .addrRange ∧
    refusal (exec (.memRd 32768) (coreAt .on)) = some .addrRange ∧
    answer (exec (.memRd 0o20200) { coreAt .on with mem := [(0o20200, 0o1234)] }) = number 0o1234 ∧
    answer (exec (.memRd 100) { State.reset with agent := .host }) = number 0 := by decide

/-- Writes in any order leave one canonical memory. -/
theorem test_memory_canonical :
    Memory.write (Memory.write (Memory.write [] 9 1) 3 2) 5 3 = [(3, 2), (5, 3), (9, 1)] ∧
    Memory.wf [(3, 2), (5, 3), (9, 1)] = true ∧ Memory.wf [(5, 3), (3, 2)] = false ∧
    Memory.wf [(3, 0)] = false ∧ Memory.wf [(3, 1), (3, 2)] = false ∧
    Memory.write [(3, 2), (5, 3)] 3 0 = [(5, 3)] ∧ Memory.wf State.reset.mem = true := by decide

/-! ### Memory Extension Unit (95, W5, W6 and 2.3) -/

theorem test_xa : answer (exec (.xaInstr 0o200) { coreAt .on with ifr := 2 }) = number 0o20200 ∧
    answer (exec (.xaData 0o7777) { coreAt .on with df := 7 }) = number 0o77777 ∧
    answer (exec (.xaData 0o10) { coreAt .on with ifr := 2, df := 5 }) = number 0o50010 ∧
    answer (exec (.xaInstr 0) { coreAt .on with ifr := 1, ib := 4 }) = number 0o10000 ∧
    refusal (exec (.xaInstr 4096) (coreAt .on)) = some .operand ∧
    answer (exec (.xaData 0o200) { coreAt .off with df := 3 }) = number 0o200 := by decide

theorem test_branchOrCall :
    field fields (exec .branchOrCall { coreAt .on with ifr := 0, ib := 2, uf := 0, ub := 1, ui := 1 }) =
      some [2, 0, 2, 0, 1, 1, 0] ∧
    field fields (exec .branchOrCall { coreAt .on with ifr := 7, ib := 0, uf := 1, ub := 0, ui := 0 }) =
      some [0, 0, 0, 0, 0, 0, 0] ∧
    field fields (exec .branchOrCall { coreAt .on with ifr := 5, ib := 7, uf := 0, ub := 0, ui := 1 }) =
      some [7, 0, 7, 0, 0, 0, 0] := by decide

theorem test_intEntry :
    field (fun t => (fields t, t.ist))
      (exec .intEntry { coreAt .on with ifr := 5, df := 2, uf := 1, ib := 3, ub := 1, ist := .enabled })
      = some ([0, 0, 0, 0o152, 0, 0, 0], .disabled) ∧
    field (fun t => (t.sf, t.ist)) (exec .intEntry { coreAt .off with ist := .enabled }) =
      some (0, .enabled) := by decide

theorem test_intReturn :
    field (fun t => (t.df, t.ib, t.ub, t.ifr)) (exec (.intReturn 2 5) { coreAt .on with sf := 0o152 }) =
      some (2, 5, 1, 0) ∧
    field (fun t => (t.df, t.ib, t.ub)) (exec (.intReturn 6 1) { coreAt .on with sf := 0o016, ub := 1 })
      = some (6, 1, 0) ∧
    refusal (exec (.intReturn 8 0) (coreAt .on)) = some .operand := by decide

theorem test_fieldWrites :
    field (fun t => (t.ib, t.ifr)) (exec (.wrIb 4) { coreAt .on with ifr := 1 }) = some (4, 1) ∧
    refusal (exec (.wrUf 2) (hostAt .on)) = some .operand ∧
    refusal (exec (.wrSf 128) (hostAt .on)) = some .operand ∧
    refusal (exec (.wrIf 3) (coreAt .on)) = some .permission ∧
    field State.ifr (exec (.wrIf 3) (hostAt .on)) = some 3 ∧
    field State.sf (exec (.wrSf 0o152) (hostAt .on)) = some 106 ∧
    field State.uf (exec (.wrUf 1) (hostAt .on)) = some 1 ∧
    field State.df (exec (.wrDf 3) (coreAt .off)) = some 0 ∧
    field State.df (exec (.wrDf 3) (coreAt .on)) = some 3 ∧
    field State.ub (exec (.wrUb 1) (coreAt .on)) = some 1 ∧
    field State.ui (exec (.wrUi 1) (coreAt .on)) = some 1 := by decide

/-- Each field read answers its own field (R145 to R151), and 0 with EMA off (R160). -/
theorem test_fieldReads :
    let s := { coreAt .on with ifr := 1, df := 2, ib := 3, sf := 106, uf := 1, ub := 0, ui := 1 }
    [Instr.rdIf, .rdDf, .rdIb, .rdSf, .rdUf, .rdUb, .rdUi].map (fun i => answer (exec i s)) =
      [number 1, number 2, number 3, number 106, number 1, number 0, number 1] ∧
    [Instr.rdIf, .rdDf, .rdIb, .rdSf, .rdUf, .rdUb, .rdUi].map
      (fun i => answer (exec i { s with ema := .off })) = List.replicate 7 (number 0) := by decide

/-! ### Interrupt Controller (95, W2 to W4 and 2.4) -/

theorem test_intPost : field State.irq (exec .intPost (deviceAt 1)) = some 2 ∧
    field (fun t => (t.fatal, t.run, t.irq))
      (exec .intPost { deviceAt 2 with params := { params with reqMax := some 2 } }) =
      some (some .reqOverflow, false, 2) := by decide

theorem test_intWithdraw : field State.irq (exec .intWithdraw (deviceAt 2)) = some 1 ∧
    field (fun t => (t.fatal, t.run, t.irq, t.result)) (exec .intWithdraw (deviceAt 0)) =
      some (some .reqUnderflow, false, 0, some (.fatal .reqUnderflow)) := by decide

theorem test_intDisable : [Ist.enabled, .deferredEnable, .disabled].map
    (fun i => field State.ist (exec .intDisable { coreAt .on with ist := i })) =
    [some .disabled, some .disabled, some .disabled] := by decide

theorem test_intEnableDeferred : [Ist.disabled, .deferredEnable].map
    (fun i => field State.ist (exec .intEnableDeferred { coreAt .on with ist := i })) =
    [some .deferredEnable, some .deferredEnable] ∧
    [IonMode.keep, .defer].map (fun m => field State.ist (exec .intEnableDeferred
      { coreAt .on with ist := .enabled, params := { params with ion := m } })) =
    [some .enabled, some .deferredEnable] := by decide

theorem test_intCommit : [Ist.disabled, .deferredEnable, .enabled].map
    (fun i => field State.ist (exec .intCommit { coreAt .on with ist := i })) =
    [some .disabled, some .enabled, some .enabled] := by decide

theorem test_intAcceptable : [Ist.disabled, .deferredEnable, .enabled].map (fun i => [0, 1, 1000].map
    (fun n => answer (exec .intAcceptable { coreAt .on with ist := i, irq := n }))) =
    [[number 0, number 0, number 0], [number 0, number 0, number 0],
     [number 0, number 1, number 1]] := by decide

theorem test_poll_notTaken :
    field (fun t => (t.result, t.ist, t.irq)) (exec .poll { coreAt .on with ist := .deferredEnable, irq := 5 })
      = some (some (.okValue .notTaken), .enabled, 5) ∧
    field (fun t => (t.result, t.ist)) (exec .poll { coreAt .on with ist := .disabled, irq := 1 }) =
      some (some (.okValue .notTaken), .disabled) ∧
    refusal (exec .poll { coreAt .on with phase := .config }) = some .permission := by decide

/-- The console scenario's last step (95, W8). -/
theorem test_poll_taken :
    field (fun t => (t.result, fields t, t.ist)) (exec .poll
      { coreAt .on with ist := .enabled, irq := 1, ifr := 2, ib := 2, df := 3, pc := 0o1234 }) =
      some (some (.okValue .taken), [0, 0, 0, 0o023, 0, 0, 0], .disabled) ∧
    field (fun t => (t.mem, t.pc, t.irq)) (exec .poll
      { coreAt .on with ist := .enabled, irq := 1, ifr := 2, ib := 2, df := 3, pc := 0o1234 }) =
      some ([(0, 0o1234)], 1, 1) ∧
    field (fun t => (t.result, t.ist, t.mem, t.pc)) (exec .poll
      { coreAt .on with ist := .enabled, irq := 1, pc := 0o4321,
                        params := { params with vector := .core } }) =
      some (some (.okValue .taken), .disabled, [], 0o4321) := by decide

theorem test_controllerReads : [Ist.disabled, .deferredEnable, .enabled].map
    (fun i => answer (exec .rdIntState { coreAt .on with ist := i })) = [number 0, number 1, number 2] ∧
    answer (exec .rdIntCount { coreAt .on with irq := 1000 }) = number 1000 := by decide

/-! ### Device registry (95, W7 and 2.5) -/

theorem test_devRegister :
    answer (exec (.devRegister 64 "x" "x" 7) (configAt .on)) = some (some (.err .badUnit)) ∧
    answer (exec (.devRegister 3 "other" "x" 8) (configAt .on)) = some (some (.err .dupUnit)) ∧
    field State.reg (exec (.devRegister 5 "rk" "disk" 7) (configAt .on)) =
      some [console, ⟨5, "rk", "disk", 7, none, 0⟩] ∧
    refusal (exec (.devRegister 4 "x" "x" 7) (hostAt .on)) = some .permission := by decide

theorem test_devMount :
    answer (exec (.devMount 9 "f") (hostAt .on)) = some (some (.err .unknownUnit)) ∧
    field (fun t => (t.result, t.reg)) (exec (.devMount 3 "bad") (hostAt .on)) =
      some (some (.err .openFailed), [console]) ∧
    field State.reg (exec (.devMount 3 "/dev/tty") (hostAt .on)) =
      some [⟨3, "console", "tty", 7, some "/dev/tty", 5⟩] ∧
    faultOf (exec (.devMount 3 "none") (hostAt .on)) = some (.noOutcome .mount 3) := by decide

theorem test_devMountLabel :
    field (fun t => t.reg.map DeviceRecord.mounted) (exec (.devMountLabel "lp" "/dev/tty")
      { hostAt .on with reg := [⟨2, "p", "lp", 7, none, 0⟩, ⟨6, "q", "lp", 7, none, 0⟩] }) =
      some [some "/dev/tty", none] ∧
    answer (exec (.devMountLabel "zz" "f") (hostAt .on)) = some (some (.err .unknownLabel)) := by decide

theorem test_devPower :
    field (fun t => (t.pwr, t.reg.map DeviceRecord.dstate)) (exec (.devPowerUp []) (configAt .on)) =
      some (true, [2]) ∧
    refusal (exec (.devPowerUp []) { configAt .on with pwr := true }) = some .permission ∧
    field (fun t => (t.run, t.phase)) (exec .devPowerDown { hostAt .on with run := true }) =
      some (false, .down) := by decide

/-- Negative operands are refused by the meanings as well (R87). -/
theorem test_negativeOperands :
    refusal (exec (.wrDf (-1)) (coreAt .on)) = some .operand ∧
    refusal (exec (.intReturn 0 (-1)) (coreAt .on)) = some .operand ∧
    refusal (exec (.memWr (-1) 0) (coreAt .on)) = some .addrRange ∧
    refusal (exec (.devDispatch 3 (-1)) (coreAt .on)) = some .operand := by decide

theorem test_devInitAll : field (fun t => t.reg.map DeviceRecord.dstate) (exec .devInitAll (coreAt .on)) =
    some [3] := by decide

theorem test_devDispatch :
    field (fun t => (t.ac, t.irq, t.reg.map DeviceRecord.dstate))
      (exec (.devDispatch 3 6) { coreAt .on with irq := 1 }) = some (0o101, 0, [7]) ∧
    field (fun t => (t.ac, t.fatal, t.run, t.reg))
      (exec (.devDispatch 3 6) (coreAt .on)) =
      some (0o101, some .reqUnderflow, false, [console]) ∧
    refusal (exec (.devDispatch 3 1) (coreAt .on)) = some .permission ∧
    refusal (exec (.devDispatch 3 8) (coreAt .on)) = some .operand ∧
    field (fun t => (t.fatal, t.run)) (exec (.devDispatch 7 0) (coreAt .on)) =
      some (some .dispatchUnregistered, false) ∧
    faultOf (exec (.devDispatch 3 5) (coreAt .on)) = some (.noOutcome .dispatch 3) := by decide

theorem test_deviceStep :
    field (fun t => (t.irq, t.reg.map DeviceRecord.dstate)) (deviceStep 3 (coreAt .on)) =
      some (1, [4]) ∧
    field State.fatal (deviceStep 3 { coreAt .on with reg := [{ console with dstate := 9 }] }) =
      some (some .reqUnderflow) ∧
    field State.irq (deviceStep 3 { coreAt .on with phase := .config }) = some 0 ∧
    faultOf (deviceStep 3 { coreAt .on with reg := [{ console with dstate := 1 }] }) =
      some (.noOutcome .step 3) := by decide

/-! ### Host interface, reset and the fatal state (95, 2.6 and 2.7) -/

theorem test_sysConfigure :
    field (fun t => (t.ema, t.mem, t.ifr)) (exec (.sysConfigure .off)
      { configAt .on with mem := [(7, 7)], ifr := 3 }) = some (.off, [], 0) ∧
    refusal (exec (.sysConfigure .on) (hostAt .on)) = some .permission := by decide

theorem test_sysStart : field State.phase (exec .sysStart (configAt .on)) = some .active ∧
    refusal (exec .sysStart (hostAt .on)) = some .permission := by decide

/-- The state the spec's reset vector starts from. -/
def busy : State :=
  { coreAt .on with ac := 5, l := 1, ist := .enabled, irq := 2, pc := 0o200, ifr := 3, sr := 0o7070 }

theorem test_sysReset :
    field (fun t => (t.ac, t.l, t.ist, t.irq)) (exec .sysReset busy) = some (0, 0, .disabled, 0) ∧
    field (fun t => (t.ifr, t.pc, t.sr, t.reg.map DeviceRecord.dstate)) (exec .sysReset busy) =
      some (0, 0o200, 0o7070, [3]) := by decide

/-- A state whose elements of R245 all differ. -/
def full : State :=
  { hostAt .on with
    ac := 1, l := 1, pc := 2, mq := 3, sr := 4, ma := 5, mb := 6, ifr := 1, df := 2, ib := 3, sf := 106,
    uf := 1, ub := 0, ui := 1, ist := .deferredEnable, irq := 9, mem := [(0, 7), (0o20200, 0o7777)] }

theorem test_snapSave : answer (exec .snapSave full) =
    some (some (.okValue (.image (encodeImage params
      { ema := .on, words := 32768, cells := [(0, 7), (0o20200, 0o7777)], ac := 1, l := 1, pc := 2,
        mq := 3, sr := 4, ma := 5, mb := 6, run := 0, meu := some ⟨1, 2, 3, 106, 1, 0, 1⟩, ie := 0,
        idef := 1, irq := 9 })))) := rfl

theorem decode_full :
    decodeImage params (encodeImage params (imageContent full)) = some (imageContent full) :=
  decodeImage_encodeImage (e := .on) (by decide)

theorem test_snapLoad :
    ∃ t, exec (.snapLoad (encodeImage params (imageContent full))) (hostAt .on) = .next t ∧
      (t.ac, fields t, t.ist, t.mem) =
        (1, [1, 2, 3, 106, 1, 0, 1], .deferredEnable, [(0, 7), (0o20200, 0o7777)]) := by
  refine ⟨(hostAt .on).loadImage (encodeImage params (imageContent full)), rfl, ?_⟩
  simp only [State.loadImage, show (hostAt .on).params = params from rfl, decode_full]
  decide

theorem test_snapLoad_refused :
    refusal (exec (.snapLoad []) { full with run := true }) = some .permission := by decide

/-- A load restores RUN in every phase (R244), and in `PHASE = Down` the block stays powered down (R278). -/
theorem test_load_down :
    let t := { hostAt .on with phase := .down }.loadContent { imageContent full with run := 1 }
    t.run = true ∧ t.powerState = some .poweredDown ∧
    refusal (exec (.wrRun 1) { hostAt .on with phase := .down }) = some .permission ∧
    refusal (exec .poll { coreAt .on with phase := .down }) = some .permission := by decide

/-- One content for each check of R247. -/
theorem test_contentValid :
    let c := imageContent full
    [{ c with ema := .off }, { c with words := 4096 }, { c with cells := [(0, 4096)] },
      { c with cells := [(32768, 1)] }, { c with ac := 4096 }, { c with l := 2 }, { c with pc := 4096 },
      { c with mq := 4096 }, { c with sr := 4096 }, { c with ma := 4096 }, { c with mb := 4096 },
      { c with run := 2 }, { c with meu := none }, { c with meu := some ⟨8, 2, 3, 106, 1, 0, 1⟩ },
      { c with ie := 1 }].all (fun c => !contentValid params .on c) = true ∧
    contentValid params .on c = true ∧
    contentValid { params with reqMax := some 8 } .on c = false := by decide

theorem test_fatal :
    field (fun t => (t.result, t.ac)) (exec (.wrAc 5) (fatalAt .core)) =
      some (some (.fatal .dispatchUnregistered), 0o17) ∧
    answer (exec .rdAc (fatalAt .host)) = number 0o17 ∧
    answer (exec .sysReset (fatalAt .host)) = some (some (.fatal .dispatchUnregistered)) ∧
    field (fun t => (t.fatal, t.phase)) (exec .devPowerDown (fatalAt .host)) =
      some (some .dispatchUnregistered, .down) ∧
    Result.number (.fatal .dispatchUnregistered) = 0x82 ∧ Result.number (.err .imageMalformed) = 0x06 :=
  by decide

/-! ### The step -/

theorem test_step_command :
    field (fun t => (t.ac, t.inbox)) (step { coreAt .on with inbox :=
      [.command .core ⟨0x10, { Ports.zero with v := -1 }⟩, .deviceStep 3] }) =
      some (4095, [.deviceStep 3]) ∧
    field (fun t => (t.irq, t.inbox)) (step { coreAt .on with inbox := [.deviceStep 3] }) =
      some (1, []) ∧
    refusal (step { coreAt .on with inbox := [.command .host ⟨0x09, Ports.zero⟩] }) =
      some (.reserved 0x09) := by decide

theorem test_withFetchWord :
    answer (step (State.reset.withFetchWord 8 0x47)) = number 0 ∧
    field State.phase (step (State.reset.withFetchWord 8 0x71)) = some .active ∧
    refusal (step (State.reset.withFetchWord 8 0x7F)) = some (.reserved 0x7F) := by decide

/-! ### Witnesses: states and operands that meet the hypotheses of each statement -/

theorem witness_RegisterReads : MayRead (coreAt .on) ∧ MayRead (hostAt .off) ∧
    MayRead (fatalAt .host) := by decide

/-- For every statement whose hypotheses are "not fatal, and may write". -/
theorem witness_RegisterWrites :
    (coreAt .on).fatal = none ∧ MayWrite (coreAt .on) ∧ (hostAt .off).fatal = none ∧
    MayWrite (hostAt .off) := by decide

theorem witness_SwitchRegister :
    ({ hostAt .on with run := true }).fatal = none ∧ ({ hostAt .on with run := true }).agent = .host ∧
    (coreAt .on).fatal = none ∧ (coreAt .on).agent ≠ .host := by decide

theorem witness_AddressRegister :
    (coreAt .on).params.maWidth = .w12 ∧
    ({ coreAt .on with params := { params with maWidth := .w15 } }).params.maWidth = .w15 ∧
    ({ coreAt .on with params := { params with maWidth := .w15 } }).fatal = none ∧
    MayWrite { coreAt .on with params := { params with maWidth := .w15 } } := by decide

theorem witness_LinkWrite : (hostAt .on).fatal = none ∧ MayWrite (hostAt .on) := by decide

theorem witness_RunFlag :
    ((hostAt .on).fatal = none ∧ (hostAt .on).agent = .host ∧ (hostAt .on).run = false ∧
      (hostAt .on).phase = .active) ∧
    (({ hostAt .on with run := true }).fatal = none ∧ ({ hostAt .on with run := true }).agent = .host ∧
      (0 : Int) = 0) ∧
    ((configAt .on).fatal = none ∧ (1 : Int) ≠ 0 ∧ (configAt .on).phase ≠ .active) := by decide

theorem witness_LinkAndAccumulator : (coreAt .off).fatal = none ∧ MayWrite (coreAt .off) := by decide

theorem witness_ReadAfterWrite :
    (coreAt .on).fatal = none ∧ MayWrite (coreAt .on) ∧ (coreAt .on).phase = .active ∧
    MayWrite (configAt .on) ∧ (configAt .on).phase ≠ .active := by decide

theorem witness_MemoryRead :
    MayRead (coreAt .on) ∧ 32767 < (if (coreAt .on).ema = .on then 32768 else 4096) ∧
    ¬ 32768 < (if (coreAt .on).ema = .on then 32768 else 4096) ∧
    MayRead (hostAt .off) ∧ 4095 < (if (hostAt .off).ema = .on then 32768 else 4096) ∧
    ¬ 4096 < (if (hostAt .off).ema = .on then 32768 else 4096) := by decide

theorem witness_MemoryWrite :
    Memory.wf (coreAt .on).mem = true ∧ (coreAt .on).fatal = none ∧ MayWrite (coreAt .on) ∧
    32767 < (if (coreAt .on).ema = .on then 32768 else 4096) ∧
    ¬ 32768 < (if (coreAt .on).ema = .on then 32768 else 4096) := by decide

theorem witness_ExtendedAddresses : MayRead (coreAt .on) ∧ MayRead (hostAt .off) ∧ 4095 < 4096 := by
  decide

theorem witness_FieldReads : MayRead (coreAt .on) ∧ (coreAt .on).ema = .on ∧ MayRead (hostAt .off) ∧
    (hostAt .off).ema = .off := by decide

theorem witness_ExtendedAddress :
    MayRead (coreAt .on) ∧ (coreAt .on).ema = .on ∧ (coreAt .off).ema = .off ∧ 4095 < 4096 ∧
    4096 ≤ 4096 := by decide

theorem witness_BranchPromotes : (coreAt .on).fatal = none ∧ (coreAt .on).agent = .core ∧
    (coreAt .on).ema = .on ∧ (coreAt .off).ema = .off := by decide

theorem witness_InterruptEntry : (coreAt .on).fatal = none ∧ (coreAt .on).agent = .core ∧
    (coreAt .on).ema = .on ∧ (coreAt .off).ema = .off := by decide

theorem witness_InterruptReturn : (coreAt .on).fatal = none ∧ (coreAt .on).agent = .core ∧ 7 < 8 ∧
    (coreAt .on).ema = .on ∧ (coreAt .off).ema = .off := by decide

theorem witness_CoreFieldWrites : (coreAt .on).fatal = none ∧ MayWrite (coreAt .on) ∧ 7 < 8 ∧ 1 < 2 ∧
    (coreAt .on).ema = .on ∧ (coreAt .off).ema = .off := by decide

theorem witness_HostFieldWrites :
    (hostAt .on).fatal = none ∧ 7 < 8 ∧ 127 < 128 ∧ 1 < 2 ∧ HostHalted (hostAt .on) ∧
    (hostAt .on).ema = .on ∧ HostHalted (hostAt .off) ∧ (hostAt .off).ema = .off ∧
    (coreAt .on).fatal = none ∧ ¬ HostHalted (coreAt .on) ∧
    ¬ HostHalted { hostAt .on with run := true } := by decide

theorem witness_ExtendedMemoryAbsent :
    (coreAt .off).fatal = none ∧ (coreAt .off).ema = .off ∧ 4095 < 4096 ∧ 7 < 8 ∧ 127 < 128 ∧ 1 < 2 ∧
    MayRead (coreAt .off) ∧ (coreAt .off).agent = .core ∧ MayWrite (coreAt .off) ∧
    (hostAt .off).fatal = none ∧ (hostAt .off).ema = .off ∧ HostHalted (hostAt .off) := by decide

theorem witness_OperandsOutOfRange :
    (coreAt .on).fatal = none ∧ MayWrite (coreAt .on) ∧ (coreAt .on).agent = .core ∧
    CoreActive (coreAt .on) ∧ (hostAt .on).fatal = none ∧ HostHalted (hostAt .on) ∧ 8 ≤ 8 ∧ 2 ≤ 2 ∧
    128 ≤ 128 ∧ MayRead (coreAt .on) ∧ (-1 : Int) < 0 ∧ 32768 ≤ 32768 ∧ 2 ^ (coreAt .on).params.opcWidth ≤ 8 := by decide

/-- The entry, and later states that keep what it left: the return and the branch apply to them. -/
theorem witness_EntryThenReturn :
    (coreAt .on).fatal = none ∧ (coreAt .on).agent = .core ∧ (coreAt .on).ema = .on ∧
    ∃ s1, exec .intEntry { coreAt .on with ifr := 5, df := 2, uf := 1 } = .next s1 ∧
      s1.fatal = none ∧ s1.agent = .core ∧ s1.ema = .on ∧
      ∃ s3, exec (.intReturn 2 5) s1 = .next s3 ∧ s3.fatal = none ∧ s3.agent = .core ∧ s3.ema = .on ∧
        s3.ib = 5 ∧ s3.ub = 1 :=
  ⟨rfl, rfl, rfl, _, rfl, rfl, rfl, rfl, _, rfl, rfl, rfl, rfl, rfl, rfl⟩

/-- A command that is no control transfer, a dispatch whose handler issues none, and their next
states. -/
theorem witness_ActiveField :
    (writesActiveField (.wrIb 2) = false ∧ (∀ u c, Instr.wrIb 2 ≠ .devDispatch u c) ∧
      ∃ t, exec (.wrIb 2) (coreAt .on) = .next t) ∧
    ((∀ r d cmds, findUnit (coreAt .on).reg 3 = some r →
        dispatchOutcome (coreAt .on) r 6 (coreAt .on).draws = some (d, cmds) →
        ∀ k ∈ cmds, writesActiveField k = false) ∧
      ∃ t, exec (.devDispatch 3 6) (coreAt .on) = .next t) ∧
    ∃ t, deviceStep 3 (coreAt .on) = .next t := by
  refine ⟨⟨rfl, (fun _ _ h => by cases h), _, rfl⟩, ⟨?_, _, rfl⟩, _, rfl⟩
  intro r d cmds h1 h2
  rw [show findUnit (coreAt .on).reg 3 = some console from rfl] at h1
  cases h1
  rw [show dispatchOutcome (coreAt .on) console 6 (coreAt .on).draws =
    some (7, [.wrAc 0x41, .intWithdraw]) from rfl] at h2
  cases h2
  decide

theorem witness_PostsAndWithdrawals :
    (deviceAt 1).fatal = none ∧ (deviceAt 1).agent = .device ∧
    (deviceAt 1).params.reqMax ≠ some (deviceAt 1).irq ∧ 0 < (deviceAt 1).irq ∧
    (deviceAt 0).irq = 0 ∧
    ({ deviceAt 2 with params := { params with reqMax := some 2 } }).params.reqMax = some 2 := by decide

theorem witness_Counter :
    (deviceAt 0).fatal = none ∧ (deviceAt 0).agent = .device ∧ (deviceAt 0).irq = 0 ∧
    (∀ m, (deviceAt 0).params.reqMax = some m →
      [true, true, false, true, false, false].count true ≤ m) ∧
    (∀ p, p <+: [true, true, false, true, false, false] → p.count false ≤ p.count true) ∧
    [true, true, false, true, false, false].count false =
      [true, true, false, true, false, false].count true := by
  refine ⟨rfl, rfl, rfl, (fun m h => by cases h), fun p hp => ?_, by decide⟩
  exact (by decide : ∀ p ∈ [true, true, false, true, false, false].inits,
    p.count false ≤ p.count true) p ((List.mem_inits p _).2 hp)

theorem witness_DisableAndCommit :
    (coreAt .on).fatal = none ∧ (coreAt .on).agent = .core ∧ (coreAt .on).phase = .active ∧
    ({ coreAt .on with ist := .deferredEnable }).ist = .deferredEnable ∧
    (coreAt .on).ist ≠ .deferredEnable := by decide

theorem witness_EnableDeferred :
    (coreAt .on).fatal = none ∧ (coreAt .on).agent = .core ∧ (coreAt .on).ist ≠ .enabled ∧
    [IonMode.keep, .defer, .any].all (fun m =>
      let s := { coreAt .on with ist := .enabled, params := { params with ion := m } }
      decide (s.fatal = none ∧ s.agent = .core ∧ s.ist = .enabled ∧ s.params.ion = m)) = true := by
  decide

theorem witness_ControllerReads :
    MayRead (coreAt .on) ∧ (coreAt .on).ist = .disabled ∧ (coreAt .on).irq = 0 ∧
    MayRead { coreAt .on with ist := .enabled, irq := 1 } ∧
    ({ coreAt .on with ist := .enabled, irq := 1 }).ist = .enabled ∧
    0 < ({ coreAt .on with ist := .enabled, irq := 1 }).irq ∧
    ({ coreAt .on with ist := .deferredEnable, irq := 1 }).ist = .deferredEnable := by decide

theorem witness_PollWithoutAcceptance :
    (coreAt .on).fatal = none ∧ CoreActive (coreAt .on) ∧ (coreAt .on).ist = .disabled ∧
    CoreActive { coreAt .on with ist := .deferredEnable } ∧
    ({ coreAt .on with ist := .enabled }).ist = .enabled ∧ ({ coreAt .on with ist := .enabled }).irq = 0 := by
  decide

theorem witness_PollTakes : [Ema.on, .off].all (fun e => [VectorMode.pdp8Jms0, .core].all fun m =>
    let s := { coreAt e with ist := .enabled, irq := 1, params := { params with vector := m } }
    decide (Memory.wf s.mem = true ∧ s.fatal = none ∧ CoreActive s ∧ s.ist = .enabled ∧ 0 < s.irq ∧
      s.ema = e ∧ s.params.vector = m)) = true := by decide

/-- The hypotheses, and those on the two later states. -/
theorem witness_DeferredEnable :
    (coreAt .on).fatal = none ∧ CoreActive (coreAt .on) ∧ (coreAt .on).ist = .disabled ∧
    field State.ist (exec .intEnableDeferred (coreAt .on)) = some .deferredEnable ∧
    CoreActive { coreAt .on with ist := .deferredEnable, irq := 5 } ∧
    field State.ist (exec .poll { coreAt .on with ist := .deferredEnable, irq := 5 }) = some .enabled ∧
    CoreActive { coreAt .on with ist := .enabled, irq := 1 } ∧
    0 < ({ coreAt .on with ist := .enabled, irq := 1 }).irq := by decide

theorem witness_EnableThenDisable :
    (coreAt .off).fatal = none ∧ CoreActive (coreAt .off) ∧ (coreAt .off).ist = .disabled := by decide

theorem witness_Register :
    (configAt .on).fatal = none ∧ (configAt .on).agent = .host ∧ (configAt .on).phase = .config ∧
    (configAt .on).params.unitCount ≤ 64 ∧ 63 < (configAt .on).params.unitCount ∧
    (∃ r ∈ (configAt .on).reg, r.unit = 3) ∧ (∀ r ∈ (configAt .on).reg, r.unit ≠ 63) := by decide

theorem witness_FirstRegistration :
    (∀ r ∈ (configAt .on).reg, r.unit ≠ 5) ∧
    ∃ t, exec (.devRegister 5 "rk" "rk" 7) (configAt .on) = .next t ∧ t.result = some .ok :=
  ⟨by decide, _, rfl, rfl⟩

theorem witness_Mount :
    ((hostAt .on).fatal = none ∧ (hostAt .on).agent = .host ∧ (hostAt .on).phase ≠ .down ∧
      findUnit (hostAt .on).reg 9 = none ∧ findUnit (hostAt .on).reg 3 = some console) ∧
    mountOutcome (hostAt .on).params console "/dev/tty" (hostAt .on).draws = some (.mounted 5) ∧
    mountOutcome (hostAt .on).params console "bad" (hostAt .on).draws = some .openFailed ∧
    mountOutcome (hostAt .on).params console "none" (hostAt .on).draws = none := by decide

theorem witness_MountByLabel :
    let r : DeviceRecord := ⟨2, "p", "lp", 7, none, 0⟩
    let s := { hostAt .on with reg := [console, r, ⟨6, "q", "lp", 7, none, 0⟩] }
    (s.reg.map DeviceRecord.unit).Nodup ∧ s.fatal = none ∧ s.agent = .host ∧ s.phase ≠ .down ∧
    (∀ x ∈ s.reg, x.label ≠ "zz") ∧ s.reg = [console] ++ r :: [⟨6, "q", "lp", 7, none, 0⟩] ∧
    r.label = "lp" ∧ (∀ x ∈ [console], x.label ≠ "lp") ∧
    (mountOutcome s.params r "/dev/tty" s.draws).isSome = true := by decide

/-- Every handler of the registry has an outcome at every draw. -/
theorem witness_DeviceHandlers :
    ((configAt .on).fatal = none ∧ (configAt .on).agent = .host ∧ (configAt .on).phase = .config ∧
      (configAt .on).pwr = false ∧
      ∀ r ∈ (configAt .on).reg, ∀ n, (powerOutcome (configAt .on).params .up [] r n).isSome = true) ∧
    (({ configAt .on with pwr := true }).fatal = none ∧ ({ configAt .on with pwr := true }).pwr = true) ∧
    ((fatalAt .host).agent = .host ∧
      ∀ r ∈ (fatalAt .host).reg, ∀ n, (powerOutcome (fatalAt .host).params .down [] r n).isSome = true) ∧
    ((coreAt .on).fatal = none ∧ (coreAt .on).agent = .core ∧ (coreAt .on).phase = .active ∧
      ∀ r ∈ (coreAt .on).reg, ∀ n, (initOutcome (coreAt .on).params r n).isSome = true) := by
  refine ⟨⟨rfl, rfl, rfl, rfl, ?_⟩, ⟨rfl, rfl⟩, ⟨rfl, ?_⟩, rfl, rfl, rfl, ?_⟩ <;> intro r hr n <;>
    cases List.mem_singleton.1 hr <;> rfl

/-- A device none of whose handlers has an outcome, and a registry that comes to it second. -/
def mute : DeviceTable :=
  { init0 := 0, mount := [], dispatch := [], power := [], init := [], step := [] }

def withMute (s : State) : State :=
  { s with params := { params with devices := [(7, tty), (8, mute)] },
           reg := [console, ⟨5, "mute", "mute", 8, none, 0⟩] }

theorem stuck_second {f : DeviceRecord → Nat → Option DState} {n : Nat} {r : DeviceRecord}
    (h1 : (f console n).isSome = true) (h2 : f r (n + 1) = none) :
    StuckAt f n [console, r] r.unit := by
  refine ⟨[console], r, [], rfl, rfl, h2, fun k x hx => ?_⟩
  cases k with
  | zero => injection hx with hx; subst hx; exact h1
  | succ k => simp at hx

/-- The hypotheses of the clauses that leave the block stuck, of `SYS_RESET` too. -/
theorem witness_HandlersStuck :
    let s := withMute (configAt .on)
    let t := withMute (coreAt .on)
    (s.fatal = none ∧ s.agent = .host ∧ s.phase = .config ∧ s.pwr = false ∧
      StuckAt (powerOutcome s.params .up []) s.draws s.reg 5) ∧
    StuckAt (powerOutcome s.params .down []) s.draws s.reg 5 ∧
    (t.fatal = none ∧ t.agent = .core ∧ t.phase = .active ∧
      StuckAt (initOutcome t.params) t.draws t.reg 5) :=
  ⟨⟨rfl, rfl, rfl, rfl, stuck_second rfl rfl⟩, stuck_second rfl rfl, rfl, rfl, rfl,
    stuck_second rfl rfl⟩

/-- A dispatch to no record, one that completes, one that ends in a fatal error, one that holds `POLL`,
and one with no outcome. -/
theorem witness_DispatchPerforms :
    ((coreAt .on).fatal = none ∧ CoreActive (coreAt .on) ∧ 7 < 2 ^ (coreAt .on).params.opcWidth ∧
      (∀ r ∈ (coreAt .on).reg, r.unit ≠ 64) ∧ findUnit (coreAt .on).reg 3 = some console) ∧
    (∃ t, dispatchOutcome (coreAt .on) console 2 (coreAt .on).draws = some (8, [.rdAc]) ∧
      runHandler [.rdAc] { coreAt .on with draws := (coreAt .on).draws + 1 } = .next t ∧
      t.fatal = none) ∧
    (∃ t, dispatchOutcome (coreAt .on) console 6 (coreAt .on).draws =
        some (7, [.wrAc 0x41, .intWithdraw]) ∧
      runHandler [.wrAc 0x41, .intWithdraw] { coreAt .on with draws := (coreAt .on).draws + 1 } =
        .next t ∧ t.fatal ≠ none) ∧
    (∃ t t', dispatchOutcome (coreAt .on) console 6 (coreAt .on).draws =
        some (7, [.wrAc 0x41] ++ .intWithdraw :: []) ∧
      runHandler [.wrAc 0x41] { coreAt .on with draws := (coreAt .on).draws + 1 } = .next t ∧
      t.fatal = none ∧ handlerCommand .intWithdraw t = .next t' ∧ t'.fatal ≠ none) ∧
    (∃ t, dispatchOutcome (coreAt .on) console 1 (coreAt .on).draws = some (0, [.rdAc] ++ .poll :: []) ∧
      runHandler [.rdAc] { coreAt .on with draws := (coreAt .on).draws + 1 } = .next t ∧
      t.fatal = none ∧ handlerCommand .poll t = .refused .permission) ∧
    dispatchOutcome (coreAt .on) console 5 (coreAt .on).draws = none :=
  ⟨by decide, ⟨_, rfl, rfl, rfl⟩, ⟨_, rfl, rfl, by decide⟩, ⟨_, _, rfl, rfl, rfl, rfl, by decide⟩,
    ⟨_, rfl, rfl, rfl, rfl⟩, rfl⟩

/-- A dispatch whose handler issues `DEV_INIT_ALL` while an init handler has no outcome. -/
theorem witness_DispatchStuck :
    let r : DeviceRecord := ⟨6, "a", "a", 9, none, 0⟩
    let s : State :=
      { withMute (coreAt .on) with
        params := { params with devices := [(7, tty), (8, mute), (9, { tty with
          dispatch := [⟨none, none, 1, [.wrAc 1, .devInitAll]⟩] })] }
        reg := [console, ⟨5, "mute", "mute", 8, none, 0⟩, r] }
    ∃ t, s.fatal = none ∧ CoreActive s ∧ 0 < 2 ^ s.params.opcWidth ∧ findUnit s.reg 6 = some r ∧
      dispatchOutcome s r 0 s.draws = some (1, [.wrAc 1] ++ .devInitAll :: []) ∧
      runHandler [.wrAc 1] { s with draws := s.draws + 1 } = .next t ∧ t.fatal = none ∧
      handlerCommand .devInitAll t = .fault (.noOutcome .init 5) :=
  ⟨_, rfl, ⟨rfl, rfl⟩, by decide, rfl, rfl, rfl, rfl, rfl⟩

theorem witness_HandlerCommands : (coreAt .on).fatal = none ∧ CoreActive (coreAt .on) := by decide

theorem witness_DispatchWrites :
    (coreAt .on).fatal = none ∧ CoreActive (coreAt .on) ∧ 6 < 2 ^ (coreAt .on).params.opcWidth ∧
    findUnit (coreAt .on).reg 3 = some console ∧
    dispatchOutcome (coreAt .on) console 6 (coreAt .on).draws = some (7, [.wrAc 0x41, .intWithdraw]) ∧
    (coreAt .on).irq = 0 ∧ 0 < ({ coreAt .on with irq := 1 }).irq ∧
    dispatchOutcome { coreAt .on with irq := 1 } console 6 (coreAt .on).draws =
      some (7, [.wrAc 0x41, .intWithdraw]) := by decide

theorem staysInRange_nil (p : Params) (h : p.reqMax = none) : StaysInRange p 0 [] := by
  intro q hq
  obtain rfl := List.prefix_nil.1 hq
  exact ⟨Nat.le_refl _, fun m hm => by rw [h] at hm; cases hm⟩

/-- A state for each clause: no step is taken, the device has no step, a step ends well, a step
underflows and a step overflows. -/
theorem witness_DeviceStep :
    let at' (d : DState) : State := { coreAt .on with reg := [{ console with dstate := d }] }
    let bounded : State := { coreAt .on with params := { params with reqMax := some 0 } }
    (configAt .on).phase ≠ .active ∧ (fatalAt .core).fatal ≠ none ∧
    (∀ r ∈ (coreAt .on).reg, r.unit ≠ 4) ∧
    ((at' 1).phase = .active ∧ (at' 1).fatal = none ∧
      findUnit (at' 1).reg 3 = some { console with dstate := 1 } ∧
      stepOutcome (at' 1).params { console with dstate := 1 } (at' 1).draws = none) ∧
    ((coreAt .on).phase = .active ∧ (coreAt .on).fatal = none ∧
      findUnit (coreAt .on).reg 3 = some console ∧
      stepOutcome (coreAt .on).params console (coreAt .on).draws = some (4, [.post]) ∧
      StaysInRange (coreAt .on).params (coreAt .on).irq [.post]) ∧
    ((at' 9).phase = .active ∧ (at' 9).fatal = none ∧
      findUnit (at' 9).reg 3 = some { console with dstate := 9 } ∧
      stepOutcome (at' 9).params { console with dstate := 9 } (at' 9).draws =
        some (1, [] ++ .withdraw :: []) ∧
      StaysInRange (at' 9).params (at' 9).irq [] ∧ 0 + 0 = (at' 9).irq) ∧
    (bounded.phase = .active ∧ bounded.fatal = none ∧ findUnit bounded.reg 3 = some console ∧
      stepOutcome bounded.params console bounded.draws = some (4, [] ++ .post :: []) ∧
      StaysInRange bounded.params bounded.irq [] ∧ bounded.params.reqMax = some bounded.irq) := by
  refine ⟨by decide, by decide, by decide, by decide, ⟨rfl, rfl, rfl, rfl, ?_⟩,
    ⟨rfl, rfl, rfl, rfl, staysInRange_nil _ rfl, rfl⟩, rfl, rfl, rfl, rfl, ?_, rfl⟩
  · intro q hq
    refine ⟨?_, fun m hm => by cases hm⟩
    exact (by decide : ∀ q ∈ [StepCmd.post].inits, q.count .withdraw ≤ 0 + q.count .post) q
      ((List.mem_inits q _).2 hq)
  · intro q hq
    obtain rfl := List.prefix_nil.1 hq
    exact ⟨Nat.le_refl _, fun m _ => Nat.zero_le _⟩

theorem witness_Configure :
    (configAt .off).fatal = none ∧ (configAt .off).agent = .host ∧ (configAt .off).phase = .config ∧
    (configAt .off).params.powerUp = .zero := by decide

theorem witness_Start :
    (configAt .on).fatal = none ∧ (configAt .on).agent = .host ∧ (configAt .on).phase = .config ∧
    (hostAt .on).fatal = none ∧ (hostAt .on).phase ≠ .config := by decide

theorem witness_SystemReset :
    ((coreAt .on).fatal = none ∧ (coreAt .on).agent = .core ∧ (coreAt .on).phase = .active ∧
      ∀ r ∈ (coreAt .on).reg, ∀ n, (initOutcome (coreAt .on).params r n).isSome = true) ∧
    (fatalAt .core).fatal = some .dispatchUnregistered := by
  refine ⟨⟨rfl, rfl, rfl, ?_⟩, rfl⟩
  intro r hr n
  cases List.mem_singleton.1 hr
  rfl

theorem witness_Save : (fatalAt .host).agent = .host ∧ (hostAt .off).agent = .host ∧
    (hostAt .off).ema = .off ∧ (fatalAt .host).ema = .on := by decide

theorem witness_Load :
    (hostAt .on).fatal = none ∧ HostHalted (hostAt .on) ∧
    decodeImage (hostAt .on).params (encodeImage params (imageContent full)) =
      some (imageContent full) ∧
    contentValid (hostAt .on).params (hostAt .on).ema (imageContent full) = true ∧
    (imageContent full).meu = some ⟨1, 2, 3, 106, 1, 0, 1⟩ ∧
    (hostAt .off).fatal = none ∧ HostHalted (hostAt .off) ∧
    decodeImage (hostAt .off).params (encodeImage params (imageContent (hostAt .off))) =
      some (imageContent (hostAt .off)) ∧
    contentValid (hostAt .off).params (hostAt .off).ema (imageContent (hostAt .off)) = true ∧
    (imageContent (hostAt .off)).meu = none :=
  ⟨rfl, by decide, decode_full, by decide, rfl, rfl, by decide,
    decodeImage_encodeImage (e := .off) (by decide), by decide, rfl⟩

/-- An image of the other feature configuration. That an image in the open format does not decode, or
decodes to a content that fails another check, is possible in some formats and not in others. -/
theorem witness_Malformed :
    (hostAt .off).fatal = none ∧ HostHalted (hostAt .off) ∧
    ∀ c, decodeImage (hostAt .off).params (encodeImage params (imageContent full)) = some c →
      Malformed (hostAt .off).params (hostAt .off).ema c := by
  refine ⟨rfl, by decide, fun c h => ?_⟩
  rw [show (hostAt .off).params = params from rfl, decode_full] at h
  injection h with h
  subst h
  exact .inl (by decide)

/-- One content for each check, at the boundary of its range. -/
theorem witness_Malformed_checks :
    let c := imageContent full
    ({ c with ema := .off }).ema ≠ full.ema ∧
    ({ c with words := 4096 }).words ≠ (if full.ema = .on then 32768 else 4096) ∧
    4096 ≤ ({ c with ac := 4096 }).ac ∧ 2 ≤ ({ c with l := 2 }).l ∧
    2 ^ full.params.srWidth ≤ ({ c with sr := 4096 }).sr ∧
    (if full.params.maWidth = .w12 then 4096 else 32768) ≤ ({ c with ma := 4096 }).ma ∧
    (∃ e ∈ ({ c with cells := [(0, 4096)] }).cells, 4096 ≤ e.2) ∧
    (∃ e ∈ ({ c with cells := [(32768, 1)] }).cells, ({ c with cells := [(32768, 1)] }).words ≤ e.1) ∧
    (({ c with ie := 1 }).ie = 1 ∧ ({ c with ie := 1 }).idef = 1) := by decide

theorem witness_Malformed_fields :
    let c := imageContent full
    let m : MeuContent := ⟨1, 2, 3, 106, 1, 0, 1⟩
    4096 ≤ ({ c with pc := 4096 }).pc ∧ 4096 ≤ ({ c with mq := 4096 }).mq ∧
    4096 ≤ ({ c with mb := 4096 }).mb ∧ 2 ≤ ({ c with run := 2 }).run ∧
    2 ≤ ({ c with ie := 2 }).ie ∧ 2 ≤ ({ c with idef := 2 }).idef ∧
    8 ≤ ({ m with ifr := 8 }).ifr ∧ 128 ≤ ({ m with sf := 128 }).sf ∧ 2 ≤ ({ m with ui := 2 }).ui ∧
    ({ c with meu := some { m with uf := 2 } }).meu = some { m with uf := 2 } ∧
    ({ full with params := { params with reqMax := some 8 } }).params.reqMax = some 8 ∧ 8 < c.irq := by
  decide

theorem witness_SaveThenLoad :
    full.Inv ∧ full.agent = .host ∧ full.run = false ∧ (hostAt .on).params = full.params ∧
    (hostAt .on).ema = full.ema ∧ (hostAt .on).fatal = none ∧ HostHalted (hostAt .on) ∧
    (hostAt .on).Inv := by decide

theorem witness_SaveThenLoad_fatal :
    (fatalAt .host).Inv ∧ (fatalAt .host).agent = .host ∧ (fatalAt .host).run = false ∧
    (fatalAt .host).fatal = some .dispatchUnregistered := by decide

theorem witness_FatalAnswers :
    (fatalAt .core).fatal = some .dispatchUnregistered ∧ worksInFatal (.wrAc 5) = false ∧
    worksInFatal .sysReset = false := by decide

theorem witness_FatalSticky :
    (fatalAt .host).fatal = some .dispatchUnregistered ∧
    (∃ t, step { fatalAt .host with inbox := [.command .host (encode .devPowerDown)] } = .next t) ∧
    decode (encode (.wrAc 5)) ≠ .ok .devPowerDown ∧
    (∃ t, step { fatalAt .host with inbox := [.command .host (encode (.wrAc 5))] } = .next t) ∧
    ∃ t, step { fatalAt .host with inbox := [.deviceStep 3] } = .next t :=
  ⟨rfl, ⟨_, rfl⟩, by decide, ⟨_, rfl⟩, _, rfl⟩

/-- Commands that may not be issued, and the three that are refused although they may. -/
theorem witness_Rights :
    (hostAt .on).fatal = none ∧ ¬ mayIssue .poll (hostAt .on) ∧ ¬ mayIssue .rdAc (deviceAt 0) ∧
    ¬ mayIssue (.wrSr 1) (coreAt .on) ∧ mayIssue .poll (coreAt .on) ∧
    mayIssue (.wrRun 1) (configAt .on) ∧
    exec (.wrRun 1) (configAt .on) = .refused .permission ∧
    mayIssue (.devPowerUp []) { configAt .on with pwr := true } ∧
    exec (.devPowerUp []) { configAt .on with pwr := true } = .refused .permission ∧
    mayIssue (.devDispatch 3 1) (coreAt .on) ∧
    exec (.devDispatch 3 1) (coreAt .on) = .refused .permission := by
  refine ⟨rfl, ?_, ?_, ?_, ⟨rfl, rfl⟩, .inr ⟨rfl, .inl rfl⟩, rfl, ⟨rfl, rfl⟩, rfl, ⟨rfl, rfl⟩, rfl⟩
  · exact fun h => by cases h.1
  · exact fun h => by rcases h with h | h <;> cases h
  · exact fun h => by cases h

theorem witness_DecodeInverts : decode ⟨0x46, ports⟩ = .ok .poll := by decide

/-- The ends of the first and the last run of reserved selectors, and one on the port. -/
theorem witness_Reserved :
    (0x09 ≤ (0x09 : Selector).toNat ∧ (0x09 : Selector).toNat ≤ 0x0F) ∧
    0x75 ≤ (0x75 : Selector).toNat ∧ 0x75 ≤ (0x7F : Selector).toNat ∧
    ({ coreAt .on with inbox := [.command .core ⟨0x27, ports⟩] }).inbox =
      .command .core ⟨0x27, ports⟩ :: [] := by decide

theorem witness_StepPerforms :
    ({ coreAt .on with inbox := [.command .core ⟨0x46, ports⟩] }).inbox =
      .command .core ⟨0x46, ports⟩ :: [] ∧ decode ⟨0x46, ports⟩ = .ok .poll ∧
    ({ coreAt .on with inbox := [.deviceStep 3] }).inbox = .deviceStep 3 :: [] ∧
    (coreAt .on).inbox = [] := by decide

theorem witness_StepInvariant :
    ({ coreAt .on with inbox := [.command .core ⟨0x51, ports⟩] }).Inv ∧
    ∃ t, step { coreAt .on with inbox := [.command .core ⟨0x51, ports⟩] } = .next t :=
  ⟨by decide, _, rfl⟩

theorem witness_Feature :
    (hostAt .on).phase ≠ .config ∧
    ∃ t, step { hostAt .on with inbox := [.command .host ⟨0x51, ports⟩] } = .next t :=
  ⟨by decide, _, rfl⟩

theorem witness_Lifecycle :
    (∃ t, step { configAt .on with pwr := true, inbox := [.command .host ⟨0x10, ports⟩] } = .next t ∧
      t.phase = .config) ∧
    (∃ t, step { hostAt .on with phase := .down, inbox := [.command .host ⟨0x74, ports⟩] } = .next t) ∧
    ({ hostAt .on with phase := .down }).powerState = some .poweredDown ∧
    (∀ img, decode ⟨0x10, ports⟩ ≠ .ok (.snapLoad img)) ∧
    ∃ t, step { hostAt .on with phase := .down, inbox := [.command .host ⟨0x10, ports⟩] } = .next t :=
  ⟨⟨_, rfl, rfl⟩, ⟨_, rfl⟩, rfl, (fun _ h => by cases h), _, rfl⟩

theorem witness_RecordsPersist :
    (∃ t, step { configAt .on with inbox := [.command .host (encode (.devRegister 5 "rk" "rk" 7))] } =
      .next t ∧ t.reg.length = 2) ∧
    (∃ t, step { hostAt .on with inbox := [.command .host (encode (.devMount 3 "/dev/tty"))] } = .next t) ∧
    (hostAt .on).phase ≠ .config :=
  ⟨⟨_, rfl, rfl⟩, ⟨_, rfl⟩, by decide⟩

end Sys2Proof.Tests
end

/-! ## Scope (00_scope.md): what a step performs, and what no step changes -/

namespace Sys2Proof.Machine

/-! ### A step performs the next event -/

/-- A decoded command that stands next is fetched with its issuer as the issuing agent (R10, R84). -/
theorem fetch_command {s : State} {a : Agent} {cmd : Command} {rest : List Event} {i : Instr}
    (h : s.inbox = .command a cmd :: rest) (hd : decode cmd = .ok i) :
    fetch s = .instr i { s with inbox := rest, agent := a } := by
  simp only [fetch, h, hd]

/-- A device event that stands next is fetched off the port (R221). -/
theorem fetch_deviceStep {s : State} {u : Nat} {rest : List Event}
    (h : s.inbox = .deviceStep u :: rest) : fetch s = .device u { s with inbox := rest } := by
  simp only [fetch, h]

/-- With no event on the port there is nothing to fetch (log 2). -/
theorem fetch_idle {s : State} (h : s.inbox = []) : fetch s = .idle := by
  simp only [fetch, h]

theorem step_command {s : State} {a : Agent} {cmd : Command} {rest : List Event} {i : Instr}
    (h : s.inbox = .command a cmd :: rest) (hd : decode cmd = .ok i) :
    step s = exec i { s with inbox := rest, agent := a } := by
  simp only [step, fetch_command h hd]

theorem step_deviceStep {s : State} {u : Nat} {rest : List Event}
    (h : s.inbox = .deviceStep u :: rest) : step s = deviceStep u { s with inbox := rest } := by
  simp only [step, fetch_deviceStep h]

theorem step_idle {s : State} (h : s.inbox = []) : step s = .next s := by
  simp only [step, fetch_idle h]

/-! ### The parameters and the feature switch -/

/-- From `s` to `t` the parameters are kept, and once `s` has left `PHASE = Config` so is EMA. That
`t` is outside Config again is what lets a dispatch chain this over its handler's commands. -/
def KeepsSetup (s t : State) : Prop :=
  t.params = s.params ∧ (s.phase ≠ .config → t.phase ≠ .config ∧ t.ema = s.ema)

namespace KeepsSetup

/-- A change of other fields keeps the setup. -/
theorem of_eq {s t : State} (hparams : t.params = s.params) (hphase : t.phase = s.phase)
    (hema : t.ema = s.ema) : KeepsSetup s t :=
  ⟨hparams, fun h => ⟨hphase ▸ h, hema⟩⟩

/-- What is allowed in Config only may change the phase and EMA. -/
theorem of_config {s t : State} (hparams : t.params = s.params) (h : s.phase = .config) :
    KeepsSetup s t :=
  ⟨hparams, fun hn => absurd h hn⟩

theorem refl (s : State) : KeepsSetup s s := of_eq rfl rfl rfl

theorem trans {s t u : State} (hst : KeepsSetup s t) (htu : KeepsSetup t u) : KeepsSetup s u := by
  obtain ⟨hp, hst⟩ := hst
  obtain ⟨hp', htu⟩ := htu
  refine ⟨hp'.trans hp, fun h => ?_⟩
  obtain ⟨hphase, hema⟩ := hst h
  obtain ⟨hphase', hema'⟩ := htu hphase
  exact ⟨hphase', hema'.trans hema⟩

end KeepsSetup

theorem postRequest_keepsSetup (s : State) : KeepsSetup s (postRequest s) := by
  rcases postRequest_cases s with ⟨_, e⟩ | ⟨_, e⟩ <;> rw [e] <;> exact .of_eq rfl rfl rfl

theorem withdrawRequest_keepsSetup (s : State) : KeepsSetup s (withdrawRequest s) := by
  rcases withdrawRequest_cases s with ⟨_, e⟩ | ⟨_, _, e⟩ <;> rw [e] <;> exact .of_eq rfl rfl rfl

theorem takeInterrupt_keepsSetup (s : State) : KeepsSetup s s.takeInterrupt := by
  obtain ⟨_, _, _, _, _, _, _, _, e⟩ := takeInterrupt_frame s
  rw [e]; exact .of_eq rfl rfl rfl

/-- A valid image has the configured feature switch, so that loading it changes no setup (R247). -/
theorem loadContent_keepsSetup {s : State} {c : ImageContent}
    (h : contentValid s.params s.ema c = true) : KeepsSetup s (s.loadContent c) := by
  obtain ⟨_, _, _, _, _, _, _, e, _⟩ := loadMeu_frame s c.meu
  have hparams : (s.loadContent c).params = s.params := by simp only [State.loadContent, e]
  have hphase : (s.loadContent c).phase = s.phase := by simp only [State.loadContent, e]
  exact .of_eq hparams hphase (contentValid_ema h)

/-- No command but `DEV_DISPATCH` changes the setup: `SYS_CONFIGURE` and `SYS_START` are allowed in
Config only, `SNAP_LOAD` takes no image of another EMA, power-down goes to Down, and the rest leave
the three fields alone. -/
theorem Change.keepsSetup {i : Instr} {s t : State} (h : Change i s t) : KeepsSetup s t := by
  cases h
  case post => exact postRequest_keepsSetup s
  case withdraw => exact withdrawRequest_keepsSetup s
  case taken => exact (takeInterrupt_keepsSetup s).trans (.of_eq rfl rfl rfl)
  case load hv => exact (loadContent_keepsSetup hv).trans (.of_eq rfl rfl rfl)
  case configure hp _ _ => exact .of_config rfl hp
  case start hp => exact .of_config rfl hp
  case powerDown => exact ⟨rfl, fun _ => ⟨by simp, rfl⟩⟩
  all_goals exact .of_eq rfl rfl rfl

theorem exec_keepsSetup {i : Instr} {s t : State} (h : exec i s = .next t) : KeepsSetup s t :=
  exec_keeps (P := KeepsSetup s)
    (hc := fun _ _ _ hx hs => hs.trans hx.keepsSetup)
    (hp := fun a hs => hs.trans (postRequest_keepsSetup a))
    (hw := fun a hs => hs.trans (withdrawRequest_keepsSetup a))
    (hflag := fun _ hs => hs.trans (.of_eq rfl rfl rfl))
    (hdrew := fun _ hs => hs.trans (.of_eq rfl rfl rfl))
    (hd := fun _ _ _ hs => hs.trans (.of_eq rfl rfl rfl))
    (hfat := fun _ _ hs => hs.trans (.of_eq rfl rfl rfl))
    (.refl s) h

theorem deviceStep_keepsSetup {u : Nat} {s t : State} (h : deviceStep u s = .next t) :
    KeepsSetup s t := by
  obtain ⟨_, _, _, _, _, _, rfl, _⟩ := deviceStep_frame h
  exact .of_eq rfl rfl rfl

theorem step_keepsSetup {s t : State} (h : step s = .next t) : KeepsSetup s t :=
  step_keeps (P := KeepsSetup s)
    (hb := fun _ _ _ hs => hs.trans (.of_eq rfl rfl rfl))
    (he := fun _ _ _ hs hx => hs.trans (exec_keepsSetup hx))
    (hd := fun _ _ _ hs hx => hs.trans (deviceStep_keepsSetup hx))
    (.refl s) h

end Sys2Proof.Machine

namespace Sys2Proof.Claims
open Sys2Proof.Machine

/-- Settles O58: every change of a command, every device step and the taking of an event keep the
setup, and a dispatch chains the changes of its handler's commands. -/
theorem featureIsImmutableAfterConfig : Obligations.FeatureIsImmutableAfterConfig := by
  unfold Obligations.FeatureIsImmutableAfterConfig
  intro s t h
  obtain ⟨hparams, hema⟩ := step_keepsSetup h
  exact ⟨hparams, fun hphase => (hema hphase).2⟩

/-- Settles O55: one lemma about `step` for each kind of next event. -/
theorem stepPerformsTheNextEvent : Obligations.StepPerformsTheNextEvent := by
  unfold Obligations.StepPerformsTheNextEvent
  intro s rest
  exact ⟨fun _ _ _ h hd => step_command h hd, fun _ h => step_deviceStep h, step_idle⟩

end Sys2Proof.Claims

/-! ## State (10_state.md): what no step changes, and the invariant every step keeps -/

namespace Sys2Proof.Machine

/-! ### A step read backwards, and the shared operations -/

/-- Everything a step can do when a next state comes out: nothing on an empty port, the decoded
command that stands next, or the device step that stands next (R10, R221). -/
theorem step_next {s t : State} (h : step s = .next t) :
    s.inbox = [] ∧ t = s ∨
    (∃ a cmd rest i, s.inbox = .command a cmd :: rest ∧ decode cmd = .ok i ∧
      exec i { s with inbox := rest, agent := a } = .next t) ∨
    ∃ u rest, s.inbox = .deviceStep u :: rest ∧ deviceStep u { s with inbox := rest } = .next t := by
  match hin : s.inbox with
  | [] =>
    rw [step_idle hin] at h
    injection h with h; exact .inl ⟨rfl, h.symm⟩
  | .deviceStep u :: rest =>
    exact .inr (.inr ⟨u, rest, rfl, step_deviceStep hin ▸ h⟩)
  | .command a cmd :: rest =>
    match hd : decode cmd with
    | .ok i => exact .inr (.inl ⟨a, cmd, rest, i, rfl, hd, step_command hin hd ▸ h⟩)
    | .error (.reserved op) => simp only [step, fetch, hin, hd] at h; cases h

/-- Posting touches the counter, the result port, and in an overflow `FATAL` and `RUN` (R180). -/
theorem postRequest_frame (s : State) : ∃ irq fatal run result,
    postRequest s = { s with irq := irq, fatal := fatal, run := run, result := result } := by
  rcases postRequest_cases s with ⟨_, e⟩ | ⟨_, e⟩ <;> exact ⟨_, _, _, _, e⟩

/-- Withdrawing touches the counter, the result port, and in an underflow `FATAL` and `RUN` (R181). -/
theorem withdrawRequest_frame (s : State) : ∃ irq fatal run result,
    withdrawRequest s = { s with irq := irq, fatal := fatal, run := run, result := result } := by
  rcases withdrawRequest_cases s with ⟨_, e⟩ | ⟨_, _, e⟩ <;> exact ⟨_, _, _, _, e⟩

/-- Loading a content leaves the parameters, the registry, the lifecycle and the fatal state as
they were (R244, R245). -/
theorem loadContent_frame (s : State) (c : ImageContent) :
    (s.loadContent c).params = s.params ∧ (s.loadContent c).reg = s.reg ∧
    (s.loadContent c).phase = s.phase ∧ (s.loadContent c).pwr = s.pwr ∧
    (s.loadContent c).fatal = s.fatal := by
  obtain ⟨_, _, _, _, _, _, _, e, _⟩ := loadMeu_frame s c.meu
  simp only [State.loadContent, e, and_self]

/-- What posting, withdrawing, drawing, a new device state and a restored result port keep, an
autonomous device step keeps (R221). -/
theorem deviceStep_keeps {P : State → Prop}
    (hp : ∀ s, P s → P (postRequest s)) (hw : ∀ s, P s → P (withdrawRequest s))
    (hdrew : ∀ s, P s → P s.drew) (hd : ∀ u d s, P s → P (s.setDState u d))
    (hres : ∀ s r, P s → P { s with result := r })
    {u : Nat} {s t : State} (hs : P s) (h : deviceStep u s = .next t) : P t := by
  rcases deviceStep_next h with rfl | ⟨_, _, r, d, cmds, _, _, rfl⟩
  · exact hs
  · have hrun : P (runStep cmds s.drew) := runStep_keeps hp hw cmds (hdrew s hs)
    unfold State.steppedTo
    split
    · exact hrun
    · exact hres _ _ (hd _ _ _ hrun)

/-! ### The invariant of the block -/

namespace State.Inv

/-- A registry with the same units is as well-formed as the old one (R43, R44). -/
theorem withReg {s : State} {reg : List DeviceRecord} (h : s.Inv)
    (he : reg.map DeviceRecord.unit = s.reg.map DeviceRecord.unit) : { s with reg := reg }.Inv := by
  obtain ⟨hwf, hbelow, hsr, hma, hmeu, hirq, hnodup, hunits, hfatal⟩ := h
  refine ⟨hwf, hbelow, hsr, hma, hmeu, hirq, he ▸ hnodup, ?_, hfatal⟩
  have hlt : ∀ u ∈ reg.map DeviceRecord.unit, u < s.params.unitCount :=
    he ▸ List.forall_mem_map.2 hunits
  exact List.forall_mem_map.1 hlt

/-- A new record with a free unit below UNIT_COUNT keeps the units distinct (R211). -/
theorem register {s : State} {r : DeviceRecord} (h : s.Inv) (hu : r.unit < s.params.unitCount)
    (hn : findUnit s.reg r.unit = none) : { s with reg := s.reg ++ [r] }.Inv := by
  obtain ⟨hwf, hbelow, hsr, hma, hmeu, hirq, hnodup, hunits, hfatal⟩ := h
  refine ⟨hwf, hbelow, hsr, hma, hmeu, hirq, ?_, ?_, hfatal⟩
  · rw [List.map_append, List.map_singleton, ← List.concat_eq_append]
    exact hnodup.concat (findUnit_none hn)
  · intro q hq
    rcases List.mem_append.1 hq with hq | hq
    · exact hunits q hq
    · exact List.mem_singleton.1 hq ▸ hu

/-- A word written inside memory keeps memory canonical and within its size (R60, R65). -/
theorem store {s : State} {a : Nat} (h : s.Inv) (w : Word) (ha : a < memWords s.ema) :
    { s with mem := Memory.write s.mem a w }.Inv := by
  obtain ⟨hwf, hbelow, hrest⟩ := h
  exact ⟨Memory.write_wf a w hwf, Memory.write_below w ha hbelow, hrest⟩

/-- The fatal state is entered halted (R262). -/
theorem raiseFatal {s : State} (h : s.Inv) (c : FatalCode) : (s.raiseFatal c).Inv := by
  obtain ⟨hwf, hbelow, hsr, hma, hmeu, hirq, hnodup, hunits, _⟩ := h
  exact ⟨hwf, hbelow, hsr, hma, hmeu, hirq, hnodup, hunits, fun _ => rfl⟩

/-- A counter within REQ_MAX keeps the invariant (R40). -/
theorem withIrq {s : State} {irq : Nat} (h : s.Inv) (hirq : irqInRange s.params irq = true) :
    { s with irq := irq }.Inv := by
  obtain ⟨hwf, hbelow, hsr, hma, hmeu, _, hrest⟩ := h
  exact ⟨hwf, hbelow, hsr, hma, hmeu, hirq, hrest⟩

/-- A halted block meets what the fatal state asks (R262). -/
theorem halt {s : State} (h : s.Inv) : { s with run := false }.Inv := by
  obtain ⟨hwf, hbelow, hsr, hma, hmeu, hirq, hnodup, hunits, _⟩ := h
  exact ⟨hwf, hbelow, hsr, hma, hmeu, hirq, hnodup, hunits, fun _ => rfl⟩

end State.Inv

/-- Zero requests are within every REQ_MAX (R40). -/
theorem irqInRange_zero (p : Params) : irqInRange p 0 = true := by
  unfold irqInRange
  split
  · rfl
  · simp

/-- Below the bound there is room for one more request (R180). -/
theorem irqInRange_succ {p : Params} {irq : Nat} (h : irqInRange p irq = true)
    (hne : p.reqMax ≠ some irq) : irqInRange p (irq + 1) = true := by
  unfold irqInRange at *
  split at h
  · rfl
  · next m hm =>
    have hm' : m ≠ irq := fun e => hne (e ▸ hm)
    simp only [decide_eq_true_eq] at h ⊢
    omega

/-- One request fewer is within the bound again (R181). -/
theorem irqInRange_pred {p : Params} {irq : Nat} (h : irqInRange p (irq + 1) = true) :
    irqInRange p irq = true := by
  unfold irqInRange at *
  split at h
  · rfl
  · simp only [decide_eq_true_eq] at h ⊢
    omega

theorem postRequest_inv {s : State} (h : s.Inv) : (postRequest s).Inv := by
  have ⟨_, _, _, _, _, hirq, _⟩ := h
  rcases postRequest_cases s with ⟨_, e⟩ | ⟨hne, e⟩ <;> rw [e]
  · exact h.raiseFatal _
  · exact h.withIrq (irqInRange_succ hirq hne)

theorem withdrawRequest_inv {s : State} (h : s.Inv) : (withdrawRequest s).Inv := by
  have ⟨_, _, _, _, _, hirq, _⟩ := h
  rcases withdrawRequest_cases s with ⟨_, e⟩ | ⟨n, hn, e⟩ <;> rw [e]
  · exact h.raiseFatal _
  · exact h.withIrq (irqInRange_pred (hn ▸ hirq))

theorem setDState_inv {s : State} (u : Nat) (d : DState) (h : s.Inv) : (s.setDState u d).Inv :=
  h.withReg
    (updateUnit_map DeviceRecord.unit (f := fun r => { r with dstate := d }) (fun _ => rfl) s.reg)

/-- A drawn run of a handler over the registry keeps the invariant (R214, R215, R217). -/
theorem drawEach_inv {s : State} {f : DeviceRecord → Nat → Option DState} {n : Nat}
    {reg : List DeviceRecord} (h : s.Inv) (hd : drawEach f s.draws s.reg = .ok (reg, n)) :
    { s with reg := reg }.Inv :=
  h.withReg (drawEach_map DeviceRecord.unit (fun _ _ => rfl) hd)

/-- With EMA off an interrupt entry does nothing, and with EMA on the fields are free (R143, R159). -/
theorem enterInterrupt_inv {s : State} (h : s.Inv) : s.enterInterrupt.Inv := by
  unfold State.enterInterrupt
  rcases State.ifEma_cases s _ with ⟨_, e⟩ | ⟨hon, e⟩ <;> rw [e]
  · exact h
  · obtain ⟨hwf, hbelow, hsr, hma, _, hrest⟩ := h
    exact ⟨hwf, hbelow, hsr, hma, fun hoff => absurd (hon.symm.trans hoff) (by decide), hrest⟩

/-- The redirect writes word 0, which every memory has (R266). -/
theorem redirect_inv {s : State} (h : s.Inv) : s.redirect.Inv := by
  unfold State.redirect
  split
  · exact h.store s.pc (memWords_pos s.ema)
  · exact h

theorem takeInterrupt_inv {s : State} (h : s.Inv) : s.takeInterrupt.Inv :=
  redirect_inv (s := s.enterInterrupt.disableInterrupts) (enterInterrupt_inv h)

/-- The checks of R247 that bear on the invariant. -/
theorem contentValid_parts {p : Params} {e : Ema} {c : ImageContent}
    (h : contentValid p e c = true) :
    imageCellsValid (memWords e) 0 c.cells = true ∧ c.sr < 2 ^ p.srWidth ∧
    c.ma < 2 ^ maBits p.maWidth ∧ imageMeuValid e c.meu = true ∧ irqInRange p c.irq = true := by
  simp only [contentValid, Bool.and_eq_true, decide_eq_true_eq, and_assoc] at h
  obtain ⟨_, _, hcells, _, _, _, _, hsr, hma, _, _, hmeu, _, hirq⟩ := h
  exact ⟨hcells, hsr, hma, hmeu, hirq⟩

/-- A valid image brings a canonical memory within the size, registers and a counter within their
ranges, and fields only where the unit exists (R244, R247). -/
theorem loadContent_inv {s : State} {c : ImageContent} (h : s.Inv) (hf : s.fatal = none)
    (hv : contentValid s.params s.ema c = true) : (s.loadContent c).Inv := by
  obtain ⟨_, _, _, _, habsent, _, hnodup, hunits, _⟩ := h
  obtain ⟨hcells, hsr, hma, hmeu, hirq⟩ := contentValid_parts hv
  obtain ⟨hparams, hreg, _, _, hfatal⟩ := loadContent_frame s c
  obtain ⟨hwf, hbelow⟩ := imageCells_wf hcells
  have hema : (s.loadContent c).ema = s.ema := contentValid_ema hv
  refine ⟨hwf, hema ▸ hbelow, hparams ▸ hsr, hparams ▸ hma, fun hoff => ?_, hparams ▸ hirq,
    hreg ▸ hnodup, hreg ▸ hparams ▸ hunits, fun hne => absurd (hfatal.trans hf) hne⟩
  have hs : s.ema = .off := hema.symm.trans hoff
  have hnone : c.meu = none := imageMeuValid_off (hs ▸ hmeu)
  simp only [State.loadContent, hnone, State.loadMeu]
  exact habsent hs

/-- Every change of a command keeps the invariant. -/
theorem Change.inv {i : Instr} {s t : State} (hx : Change i s t) (h : s.Inv) : t.Inv := by
  have ⟨hwf, hbelow, hsr, hma, hmeu, hirq, hnodup, hunits, hfatal⟩ := h
  cases hx
  case answer | controller | notOpened => exact h
  case registers hf hsr' hma' _ =>
    refine ⟨hwf, hbelow, ?_, ?_, hmeu, hirq, hnodup, hunits, fun hne => absurd hf hne⟩
    · exact hsr'.elim (fun e => e ▸ hsr) id
    · exact hma'.elim (fun e => e ▸ hma) id
  case fields hon =>
    exact ⟨hwf, hbelow, hsr, hma, fun hoff => absurd (hon.symm.trans hoff) (by decide), hirq,
      hnodup, hunits, hfatal⟩
  case post => exact postRequest_inv h
  case withdraw => exact withdrawRequest_inv h
  case taken => exact takeInterrupt_inv h
  case store a w _ ha => exact h.store w ha
  case register hu hn => exact h.register hu hn
  case mounted u d path _ =>
    exact h.withReg (updateUnit_map DeviceRecord.unit
      (f := fun r => { r with dstate := d, mounted := some path }) (fun _ => rfl) s.reg)
  case powerUp hd | init hd => exact drawEach_inv h hd
  case powerDown hd => exact (drawEach_inv h hd).halt
  case configure hf _ hw hb =>
    exact ⟨hw, hb, hsr, hma, fun _ => ⟨rfl, rfl, rfl, rfl, rfl, rfl, rfl⟩, hirq, hnodup, hunits,
      hfatal⟩
  case start => exact h
  case reset reg n hf hd =>
    have hreset : s.clearForReset.Inv :=
      ⟨hwf, hbelow, hsr, Nat.two_pow_pos _, fun _ => ⟨rfl, rfl, rfl, rfl, rfl, rfl, rfl⟩,
        irqInRange_zero s.params, hnodup, hunits, hfatal⟩
    exact drawEach_inv (s := s.clearForReset) hreset hd
  case load hf hv => exact loadContent_inv h hf hv

/-- Every command keeps the invariant. -/
theorem exec_inv {i : Instr} {s t : State} (hs : s.Inv) (h : exec i s = .next t) : t.Inv :=
  exec_keeps (P := State.Inv)
    (hc := fun _ _ _ hx hs => hx.inv hs)
    (hp := fun _ hs => postRequest_inv hs)
    (hw := fun _ hs => withdrawRequest_inv hs)
    (hflag := fun _ hs => hs)
    (hdrew := fun _ hs => hs)
    (hd := fun u d _ hs => setDState_inv u d hs)
    (hfat := fun c _ hs => hs.raiseFatal c)
    hs h

/-- An autonomous device step keeps the invariant. -/
theorem deviceStep_inv {u : Nat} {s t : State} (hs : s.Inv) (h : deviceStep u s = .next t) : t.Inv :=
  deviceStep_keeps (P := State.Inv)
    (hp := fun _ hs => postRequest_inv hs)
    (hw := fun _ hs => withdrawRequest_inv hs)
    (hdrew := fun _ hs => hs)
    (hd := fun u d _ hs => setDState_inv u d hs)
    (hres := fun _ _ hs => hs)
    hs h

/-- A step keeps the invariant, which does not speak of the command port. -/
theorem step_inv {s t : State} (hs : s.Inv) (h : step s = .next t) : t.Inv :=
  step_keeps (P := State.Inv)
    (hb := fun _ _ _ hs => hs)
    (he := fun _ _ _ hs hx => exec_inv hs hx)
    (hd := fun _ _ _ hs hx => deviceStep_inv hs hx)
    hs h

/-! ### The lifecycle -/

/-- From `s` to `t` the lifecycle goes no way back: not into Config, not out of Down, and the devices
stay powered up once they were (R47, R51). -/
def KeepsLifecycle (s t : State) : Prop :=
  (t.phase = .config → s.phase = .config) ∧ (s.phase = .down → t.phase = .down) ∧
  (s.pwr = true → t.pwr = true)

namespace KeepsLifecycle

theorem of_eq {s t : State} (hphase : t.phase = s.phase) (hpwr : t.pwr = s.pwr) :
    KeepsLifecycle s t :=
  ⟨fun h => hphase ▸ h, fun h => hphase ▸ h, fun h => hpwr ▸ h⟩

theorem refl (s : State) : KeepsLifecycle s s := of_eq rfl rfl

theorem trans {s t u : State} (hst : KeepsLifecycle s t) (htu : KeepsLifecycle t u) :
    KeepsLifecycle s u := by
  obtain ⟨hconfig, hdown, hpwr⟩ := hst
  obtain ⟨hconfig', hdown', hpwr'⟩ := htu
  exact ⟨hconfig ∘ hconfig', hdown' ∘ hdown, hpwr' ∘ hpwr⟩

end KeepsLifecycle

theorem postRequest_keepsLifecycle (s : State) : KeepsLifecycle s (postRequest s) := by
  obtain ⟨_, _, _, _, e⟩ := postRequest_frame s
  rw [e]; exact .of_eq rfl rfl

theorem withdrawRequest_keepsLifecycle (s : State) : KeepsLifecycle s (withdrawRequest s) := by
  obtain ⟨_, _, _, _, e⟩ := withdrawRequest_frame s
  rw [e]; exact .of_eq rfl rfl

/-- The three changes of the lifecycle go forwards: `SYS_START` out of Config, power-down to Down, and
power-up to PWR = 1. -/
theorem Change.keepsLifecycle {i : Instr} {s t : State} (hx : Change i s t) :
    KeepsLifecycle s t := by
  cases hx
  case start _ hconfig => exact ⟨fun _ => hconfig, fun h => (by simp [hconfig] at h), id⟩
  case powerDown => exact ⟨nofun, fun _ => rfl, id⟩
  case powerUp => exact ⟨id, id, fun _ => rfl⟩
  case post => exact postRequest_keepsLifecycle s
  case withdraw => exact withdrawRequest_keepsLifecycle s
  case taken =>
    obtain ⟨_, _, _, _, _, _, _, _, e⟩ := takeInterrupt_frame s
    rw [e]; exact .of_eq rfl rfl
  case load c _ _ _ =>
    obtain ⟨_, _, hphase, hpwr, _⟩ := loadContent_frame s c
    exact .of_eq hphase hpwr
  all_goals exact .of_eq rfl rfl

theorem exec_keepsLifecycle {i : Instr} {s t : State} (h : exec i s = .next t) :
    KeepsLifecycle s t :=
  exec_keeps (P := KeepsLifecycle s)
    (hc := fun _ _ _ hx hs => hs.trans hx.keepsLifecycle)
    (hp := fun a hs => hs.trans (postRequest_keepsLifecycle a))
    (hw := fun a hs => hs.trans (withdrawRequest_keepsLifecycle a))
    (hflag := fun _ hs => hs)
    (hdrew := fun _ hs => hs)
    (hd := fun _ _ _ hs => hs)
    (hfat := fun _ _ hs => hs)
    (.refl s) h

theorem deviceStep_keepsLifecycle {u : Nat} {s t : State} (h : deviceStep u s = .next t) :
    KeepsLifecycle s t := by
  obtain ⟨_, _, _, _, _, _, rfl, _⟩ := deviceStep_frame h
  exact .of_eq rfl rfl

theorem step_keepsLifecycle {s t : State} (h : step s = .next t) : KeepsLifecycle s t :=
  step_keeps (P := KeepsLifecycle s)
    (hb := fun _ _ _ hs => hs)
    (he := fun _ _ _ hs hx => hs.trans (exec_keepsLifecycle hx))
    (hd := fun _ _ _ hs hx => hs.trans (deviceStep_keepsLifecycle hx))
    (.refl s) h

/-- Powered down is `PHASE = Down`, whatever RUN is (R278, log 15). -/
theorem powerState_poweredDown_iff (s : State) :
    s.powerState = some .poweredDown ↔ s.phase = .down := by
  unfold State.powerState
  cases s.phase <;> cases s.run <;> simp

/-- In Down a halted block stays halted, unless the event that stands next is an image load: starting
is refused outside Active, and no device step is taken there (R119, R221, R244). -/
theorem step_run_of_down {s t : State} (hdown : s.phase = .down) (hrun : s.run = false)
    (hload : ∀ a cmd rest img, s.inbox = .command a cmd :: rest → decode cmd ≠ .ok (.snapLoad img))
    (h : step s = .next t) : t.run = false := by
  have hactive : s.phase ≠ .active := by simp [hdown]
  rcases step_next h with ⟨_, rfl⟩ | ⟨a, cmd, rest, i, hin, hd, hx⟩ | ⟨u, rest, _, hx⟩
  · exact hrun
  · have hi : ∀ img, i ≠ .snapLoad img := fun img e => hload a cmd rest img hin (e ▸ hd)
    exact (exec_run (s := { s with inbox := rest, agent := a }) hi hactive hx).elim (·.trans hrun) id
  · rcases deviceStep_next hx with rfl | ⟨ha, _⟩
    · exact hrun
    · exact absurd ha hactive

/-! ### The device records -/

/-- Outside Active a dispatch is not performed, so that every command makes one of the changes
(R84, R262). -/
theorem exec_change_of_not_active {i : Instr} {s t : State} (ha : s.phase ≠ .active)
    (h : exec i s = .next t) : Change i s t := by
  by_cases hi : ∃ u c, i = .devDispatch u c
  · obtain ⟨u, c, rfl⟩ := hi
    simp only [exec] at h
    rcases command_next h with ⟨_, _, _, rfl⟩ | ⟨_, hp, _⟩
    · exact .answer _
    · simp only [permits, decide_eq_true_eq] at hp
      exact absurd hp.2 ha
  · exact exec_change (fun u c e => hi ⟨u, c, e⟩) h

/-- Outside Config once, outside Config ever after. -/
theorem KeepsSetup.phase_ne_config {s t : State} (h : KeepsSetup s t) (hs : s.phase ≠ .config) :
    t.phase ≠ .config :=
  (h.2 hs).1

/-- What of the registry never changes (R44, R45). -/
def State.identities (s : State) : List (Nat × String × String × DevId) :=
  s.reg.map DeviceRecord.identity

/-- From `s` to `t` the records persist: at most one is appended, and none outside Config (R45). -/
def KeepsRecords (s t : State) : Prop :=
  (∃ new, new.length ≤ 1 ∧ t.identities = s.identities ++ new) ∧
  (s.phase ≠ .config → t.identities = s.identities)

theorem KeepsRecords.of_eq {s t : State} (h : t.identities = s.identities) : KeepsRecords s t :=
  ⟨⟨[], Nat.zero_le 1, by rw [h, List.append_nil]⟩, fun _ => h⟩

theorem postRequest_identities (s : State) : (postRequest s).identities = s.identities := by
  obtain ⟨_, _, _, _, e⟩ := postRequest_frame s
  rw [e]; rfl

theorem withdrawRequest_identities (s : State) : (withdrawRequest s).identities = s.identities := by
  obtain ⟨_, _, _, _, e⟩ := withdrawRequest_frame s
  rw [e]; rfl

theorem setDState_identities (u : Nat) (d : DState) (s : State) :
    (s.setDState u d).identities = s.identities :=
  updateUnit_map DeviceRecord.identity (f := fun r => { r with dstate := d }) (fun _ => rfl) s.reg

theorem drawEach_identities {f : DeviceRecord → Nat → Option DState} {n m : Nat} {s : State}
    {reg : List DeviceRecord} (h : drawEach f n s.reg = .ok (reg, m)) :
    { s with reg := reg }.identities = s.identities :=
  drawEach_map DeviceRecord.identity (fun _ _ => rfl) h

/-- `DEV_REGISTER` appends one record, in Config; every other change keeps the identities. -/
theorem Change.keepsRecords {i : Instr} {s t : State} (hx : Change i s t) : KeepsRecords s t := by
  cases hx
  case register r _ hconfig _ _ =>
    exact ⟨⟨[r.identity], Nat.le_refl 1, List.map_append⟩, fun hne => absurd hconfig hne⟩
  case post => exact .of_eq (postRequest_identities s)
  case withdraw => exact .of_eq (withdrawRequest_identities s)
  case taken =>
    obtain ⟨_, _, _, _, _, _, _, _, e⟩ := takeInterrupt_frame s
    rw [e]; exact .of_eq rfl
  case mounted u d path _ =>
    exact .of_eq (updateUnit_map DeviceRecord.identity
      (f := fun r => { r with dstate := d, mounted := some path }) (fun _ => rfl) s.reg)
  case powerUp hd | powerDown hd | init hd | reset hd => exact .of_eq (drawEach_identities hd)
  case load c _ _ _ =>
    obtain ⟨_, hreg, _⟩ := loadContent_frame s c
    exact .of_eq (congrArg (List.map DeviceRecord.identity) hreg)
  all_goals exact .of_eq rfl

/-- Outside Config no command changes the identities: a dispatch chains its handler's commands, each
of which leaves the block outside Config. -/
theorem exec_identities {i : Instr} {s t : State} (hs : s.phase ≠ .config)
    (h : exec i s = .next t) : t.identities = s.identities :=
  (exec_keeps (P := fun a => a.phase ≠ .config ∧ a.identities = s.identities)
    (hc := fun _ _ _ hx ⟨hphase, hids⟩ =>
      ⟨hx.keepsSetup.phase_ne_config hphase, (hx.keepsRecords.2 hphase).trans hids⟩)
    (hp := fun a ⟨hphase, hids⟩ =>
      ⟨(postRequest_keepsSetup a).phase_ne_config hphase, (postRequest_identities a).trans hids⟩)
    (hw := fun a ⟨hphase, hids⟩ =>
      ⟨(withdrawRequest_keepsSetup a).phase_ne_config hphase,
        (withdrawRequest_identities a).trans hids⟩)
    (hflag := fun _ ha => ha)
    (hdrew := fun _ ha => ha)
    (hd := fun u d a ⟨hphase, hids⟩ => ⟨hphase, (setDState_identities u d a).trans hids⟩)
    (hfat := fun _ _ ha => ha)
    ⟨hs, rfl⟩ h).2

theorem exec_keepsRecords {i : Instr} {s t : State} (h : exec i s = .next t) : KeepsRecords s t := by
  by_cases hs : s.phase = .config
  · exact (exec_change_of_not_active (by simp [hs]) h).keepsRecords
  · exact .of_eq (exec_identities hs h)

theorem deviceStep_identities {u : Nat} {s t : State} (h : deviceStep u s = .next t) :
    t.identities = s.identities := by
  obtain ⟨_, _, _, _, _, _, rfl, hreg⟩ := deviceStep_frame h
  rcases hreg with rfl | ⟨v, d, rfl⟩
  · rfl
  · exact setDState_identities v d s

theorem step_keepsRecords {s t : State} (h : step s = .next t) : KeepsRecords s t := by
  rcases step_next h with ⟨_, rfl⟩ | ⟨a, _, rest, _, _, _, hx⟩ | ⟨_, rest, _, hx⟩
  · exact .of_eq rfl
  · exact exec_keepsRecords (s := { s with inbox := rest, agent := a }) hx
  · exact .of_eq (deviceStep_identities (s := { s with inbox := rest }) hx)

/-! ### The active instruction field and the user flag -/

/-- From `s` to `t` the active instruction field and the user flag are kept (R31, R35). -/
def KeepsActiveField (s t : State) : Prop := t.ifr = s.ifr ∧ t.uf = s.uf

theorem KeepsActiveField.trans {s t u : State} (hst : KeepsActiveField s t)
    (htu : KeepsActiveField t u) : KeepsActiveField s u :=
  ⟨htu.1.trans hst.1, htu.2.trans hst.2⟩

theorem ifEma_keepsActiveField {s : State} {f : State → State} (hf : KeepsActiveField s (f s)) :
    KeepsActiveField s (s.ifEma f) := by
  rcases State.ifEma_cases s f with ⟨_, e⟩ | ⟨_, e⟩ <;> rw [e]
  · exact ⟨rfl, rfl⟩
  · exact hf

theorem postRequest_keepsActiveField (s : State) : KeepsActiveField s (postRequest s) := by
  obtain ⟨_, _, _, _, e⟩ := postRequest_frame s
  rw [e]; exact ⟨rfl, rfl⟩

theorem withdrawRequest_keepsActiveField (s : State) : KeepsActiveField s (withdrawRequest s) := by
  obtain ⟨_, _, _, _, e⟩ := withdrawRequest_frame s
  rw [e]; exact ⟨rfl, rfl⟩

theorem mountRecord_keepsActiveField {r : DeviceRecord} {path : String} {s t : State}
    (h : mountRecord r path s = .next t) : KeepsActiveField s t := by
  rcases mountRecord_next h with ⟨_, rfl⟩ | rfl <;> exact ⟨rfl, rfl⟩

/-- A command that is neither a dispatch nor one of the writers of R142, R143, R152, R156, R186, R240,
R244 and R302 keeps the active field: past the gate its body writes something else. -/
theorem exec_keepsActiveField {i : Instr} {s t : State} (hw : Claims.writesActiveField i = false)
    (hi : ∀ u c, i ≠ .devDispatch u c) (h : exec i s = .next t) : KeepsActiveField s t := by
  cases i
  case devDispatch u c => exact absurd rfl (hi u c)
  case branchOrCall | intEntry | poll | wrIf | wrUf | sysConfigure | sysReset | snapLoad => cases hw
  all_goals
    simp only [exec] at h
    rcases command_next h with ⟨_, _, _, rfl⟩ | ⟨_, _, hbody⟩
    · exact ⟨rfl, rfl⟩
  case intPost => injection hbody with e; subst e; exact postRequest_keepsActiveField s
  case intWithdraw => injection hbody with e; subst e; exact withdrawRequest_keepsActiveField s
  case intEnableDeferred =>
    obtain ⟨_, _, e⟩ := enableDeferred_frame s
    rw [done_next hbody, e]; exact ⟨rfl, rfl⟩
  case intCommit =>
    obtain ⟨_, e⟩ := commitEnable_frame s
    rw [done_next hbody, e]; exact ⟨rfl, rfl⟩
  case intReturn | wrDf | wrIb | wrSf | wrUb | wrUi =>
    split at hbody
    · exact done_next hbody ▸ ifEma_keepsActiveField ⟨rfl, rfl⟩
    · cases hbody
  case xaInstr | xaData | memRd | memWr | wrRun =>
    split at hbody <;> cases hbody
    exact ⟨rfl, rfl⟩
  case devRegister =>
    split at hbody
    · cases hbody; exact ⟨rfl, rfl⟩
    · split at hbody <;> cases hbody <;> exact ⟨rfl, rfl⟩
  case devMount | devMountLabel =>
    split at hbody
    · cases hbody; exact ⟨rfl, rfl⟩
    · exact mountRecord_keepsActiveField hbody
  case devPowerUp =>
    split at hbody
    · cases hbody
    · obtain ⟨_, _, _, e⟩ := forEachDevice_next hbody
      cases e; exact ⟨rfl, rfl⟩
  case devPowerDown | devInitAll =>
    obtain ⟨_, _, _, e⟩ := forEachDevice_next hbody
    cases e; exact ⟨rfl, rfl⟩
  all_goals cases hbody; exact ⟨rfl, rfl⟩

/-- A command of a dispatch handler that is no writer keeps the active field. -/
theorem handlerCommand_keepsActiveField {k : Instr} {s t : State}
    (hw : Claims.writesActiveField k = false) (h : handlerCommand k s = .next t) :
    KeepsActiveField s t := by
  obtain ⟨hk, _, hx | hx | rfl | rfl⟩ := handlerCommand_next h
  · exact exec_keepsActiveField hw hk hx
  · exact exec_keepsActiveField (s := s.flag) hw hk hx
  · exact postRequest_keepsActiveField s
  · exact withdrawRequest_keepsActiveField s

/-- A dispatch whose handler's commands hold no writer keeps the active field (R216). -/
theorem dispatchTo_keepsActiveField {r : DeviceRecord} {c : Nat} {s t : State}
    (hcmds : ∀ d cmds, dispatchOutcome s r c s.draws = some (d, cmds) →
      ∀ k ∈ cmds, Claims.writesActiveField k = false)
    (h : dispatchTo r c s = .next t) : KeepsActiveField s t := by
  obtain ⟨d, cmds, v, hdraw, hrun, hend⟩ := dispatchTo_next h
  have hv : KeepsActiveField s v :=
    runHandler_keeps (P := KeepsActiveField s)
      (fun k hk _ _ ha hab =>
        ha.trans (handlerCommand_keepsActiveField (hcmds d cmds hdraw k hk) hab))
      (s := s.drew) ⟨rfl, rfl⟩ hrun
  rcases hend with ⟨_, rfl⟩ | ⟨_, rfl⟩
  · exact hv
  · exact hv.trans ⟨rfl, rfl⟩

theorem deviceStep_keepsActiveField {u : Nat} {s t : State} (h : deviceStep u s = .next t) :
    KeepsActiveField s t := by
  obtain ⟨_, _, _, _, _, _, rfl, _⟩ := deviceStep_frame h
  exact ⟨rfl, rfl⟩

end Sys2Proof.Machine

namespace Sys2Proof.Claims
open Sys2Proof.Machine

/-- Settles O22: a case for each command that is no writer, the handler's commands in a dispatch, and
the frame of a device step. -/
theorem activeFieldChangesOnlyAtControlTransfers :
    Obligations.ActiveFieldChangesOnlyAtControlTransfers := by
  unfold Obligations.ActiveFieldChangesOnlyAtControlTransfers
  refine ⟨fun _ _ _ hw hi h => exec_keepsActiveField hw hi h, fun u c s t hcmds h => ?_,
    fun _ _ _ h => deviceStep_keepsActiveField h⟩
  simp only [exec] at h
  rcases command_next h with ⟨_, _, _, rfl⟩ | ⟨_, _, hbody⟩
  · exact ⟨rfl, rfl⟩
  · split at hbody
    · split at hbody
      · cases hbody; exact ⟨rfl, rfl⟩
      · next r hr => exact dispatchTo_keepsActiveField (fun d cmds => hcmds r d cmds hr) hbody
    · cases hbody

/-- Settles O57: every change of a command keeps the invariant, so a dispatch does, which chains the
changes of its handler's commands, and a device step, which chains posts and withdrawals. -/
theorem stepKeepsTheInvariant : Obligations.StepKeepsTheInvariant := by
  unfold Obligations.StepKeepsTheInvariant
  exact fun _ _ hs h => step_inv hs h

/-- Settles O59: every change of a command goes forwards in the lifecycle, and in Down neither a
command other than a load nor a device step sets RUN. -/
theorem lifecycleNeverGoesBack : Obligations.LifecycleNeverGoesBack := by
  unfold Obligations.LifecycleNeverGoesBack
  intro s t h
  obtain ⟨hconfig, hdown, hpwr⟩ := step_keepsLifecycle h
  refine ⟨hconfig, hdown, ?_, fun hs hrun hload => step_run_of_down hs hrun hload h, hpwr⟩
  simp only [powerState_poweredDown_iff]
  exact hdown

/-- Settles O60: `DEV_REGISTER` is the one change that appends a record, in Config, where no dispatch
can chain two of them. -/
theorem recordsPersist : Obligations.RecordsPersist := by
  unfold Obligations.RecordsPersist
  exact fun _ _ h => step_keepsRecords h

end Sys2Proof.Claims

/-! ## Memory (20_memory.md): what its two commands and the extended addresses answer -/

namespace Sys2Proof.Machine

@[simp] theorem inMemory_natCast (e : Ema) (k : Nat) : inMemory e (k : Int) = decide (k < memWords e) :=
  within_natCast (memWords e) k

@[simp] theorem isAddr12_natCast (k : Nat) : isAddr12 (k : Int) = decide (k < 4096) :=
  within_natCast 4096 k

/-! ### `MEM_RD` (R64) -/

/-- An address inside memory is read, in the fatal state too. -/
theorem exec_memRd_inside {s : State} {xa : Nat} (hr : s.agent = .core ∨ s.agent = .host)
    (h : xa < memWords s.ema) : exec (.memRd xa) s = giveNum (Memory.read s.mem xa).toNat s := by
  simp only [exec, execMemRd, command_read hr, inMemory_natCast, h, decide_true, if_true,
    Int.toNat_natCast]

/-- An address outside memory, a negative one too, is not read. -/
theorem exec_memRd_outside {s : State} {xa : Int} (hr : s.agent = .core ∨ s.agent = .host)
    (h : inMemory s.ema xa = false) : exec (.memRd xa) s = .refused .addrRange := by
  simp only [exec, execMemRd, command_read hr, h, Bool.false_eq_true, if_false]

/-! ### `MEM_WR` (R65) -/

theorem exec_memWr_inside {s : State} {xa : Nat} (v : Int) (hf : s.fatal = none)
    (hw : s.agent = .core ∨ s.agent = .host ∧ s.run = false) (h : xa < memWords s.ema) :
    exec (.memWr xa v) s = done { s with mem := Memory.write s.mem xa (mask12 v) } := by
  simp only [exec, execMemWr, command_coreWrite hf hw, inMemory_natCast, h, decide_true, if_true,
    Int.toNat_natCast]

/-- Nothing is written at an address outside memory, a negative one neither. -/
theorem exec_memWr_outside {s : State} {xa : Int} (v : Int) (hf : s.fatal = none)
    (hw : s.agent = .core ∨ s.agent = .host ∧ s.run = false) (h : inMemory s.ema xa = false) :
    exec (.memWr xa v) s = .refused .addrRange := by
  simp only [exec, execMemWr, command_coreWrite hf hw, h, Bool.false_eq_true, if_false]

theorem Memory.read_write_same {m : Memory} (h : Memory.wf m = true) (a : Nat) (w : Word) :
    Memory.read (Memory.write m a w) a = w :=
  (Memory.read_write h a w a).trans (if_pos rfl)

theorem Memory.read_write_other {m : Memory} (h : Memory.wf m = true) {a b : Nat} (w : Word)
    (hab : b ≠ a) : Memory.read (Memory.write m a w) b = Memory.read m b :=
  (Memory.read_write h a w b).trans (if_neg hab.symm)

/-! ### `XA_INSTR` and `XA_DATA` (R140, R141) -/

/-- The address in the active instruction field. -/
theorem exec_xaInstr {s : State} {a : Nat} (hr : s.agent = .core ∨ s.agent = .host)
    (ha : a < 4096) : exec (.xaInstr a) s = giveNum (extendedAddr s.ema s.ifr a) s := by
  simp only [exec, execXaInstr, command_read hr, isAddr12_natCast, ha, decide_true, if_true,
    Int.toNat_natCast]

/-- The address in the data field. -/
theorem exec_xaData {s : State} {a : Nat} (hr : s.agent = .core ∨ s.agent = .host)
    (ha : a < 4096) : exec (.xaData a) s = giveNum (extendedAddr s.ema s.df a) s := by
  simp only [exec, execXaData, command_read hr, isAddr12_natCast, ha, decide_true, if_true,
    Int.toNat_natCast]

end Sys2Proof.Machine

namespace Sys2Proof.Claims
open Sys2Proof.Machine

/-- Settles O10: the word goes into a canonical memory, where a read after the write is known. -/
theorem memoryWriteStoresOneWord : Obligations.MemoryWriteStoresOneWord := by
  unfold Obligations.MemoryWriteStoresOneWord
  intro s xa v hwf hf hw
  rw [← memWords_eq]
  refine ⟨fun hin => ⟨Memory.write s.mem xa (mask12 v), exec_memWr_inside v hf hw hin, ?_, ?_⟩,
    fun hout => exec_memWr_outside v hf hw (by simpa using hout)⟩
  · rw [Memory.read_write_same hwf]
    exact mask12_toNat v
  · exact fun b hb => Memory.read_write_other hwf (mask12 v) hb

/-- Settles O11: both commands answer an extended address, and every extended address is below
MEMWORDS. -/
theorem extendedAddressesAreInsideMemory : Obligations.ExtendedAddressesAreInsideMemory := by
  unfold Obligations.ExtendedAddressesAreInsideMemory
  intro s a hr ha
  exact ⟨_, _, _, _,
    exec_xaInstr hr ha, exec_memRd_inside hr (extendedAddr_lt s.ema s.ifr ha),
    exec_xaData hr ha, exec_memRd_inside hr (extendedAddr_lt s.ema s.df ha)⟩

/-- Settles O9: the read inside memory, and the refusal outside it. -/
theorem memoryReadAnswersTheWord : Obligations.MemoryReadAnswersTheWord := by
  unfold Obligations.MemoryReadAnswersTheWord
  intro s xa hr
  rw [← memWords_eq]
  exact ⟨fun hin => exec_memRd_inside hr hin,
    fun hout => exec_memRd_outside hr (by simpa using hout)⟩

end Sys2Proof.Claims

/-! ## Encoding (30_encoding.md): the decoder and the encoder, the rights of the agents, the operand
ranges, and what a dispatch handler may issue -/

namespace Sys2Proof.Machine

/-! ### Decode and encode (R89 to R91) -/

theorem decode_encode (i : Instr) : decode (encode i) = .ok i := by
  cases i <;> rfl

/-- The decoder refuses a selector as reserved, or gives a command whose encoding has that
selector. -/
theorem decode_cases (c : Command) :
    decode c = .error (.reserved c.opsel) ∨ ∃ i, decode c = .ok i ∧ (encode i).opsel = c.opsel := by
  unfold decode
  dsimp only
  split
  -- the last arm, for the selectors that are not in the map
  case h_61 => exact .inl rfl
  all_goals next hsel => exact .inr ⟨_, rfl, BitVec.eq_of_toNat_eq hsel.symm⟩

/-- The selectors that R90 lists as reserved. -/
def ReservedSelector (op : Selector) : Prop :=
  0x09 ≤ op.toNat ∧ op.toNat ≤ 0x0F ∨ 0x19 ≤ op.toNat ∧ op.toNat ≤ 0x1F ∨ op.toNat = 0x27 ∨
  0x2D ≤ op.toNat ∧ op.toNat ≤ 0x2F ∨ 0x37 ≤ op.toNat ∧ op.toNat ≤ 0x3F ∨
  0x49 ≤ op.toNat ∧ op.toNat ≤ 0x4F ∨ 0x52 ≤ op.toNat ∧ op.toNat ≤ 0x5F ∨
  0x67 ≤ op.toNat ∧ op.toNat ≤ 0x6F ∨ 0x75 ≤ op.toNat

theorem encode_not_reserved (i : Instr) : ¬ ReservedSelector (encode i).opsel := by
  cases i <;> simp [ReservedSelector, encode]

/-- A reserved selector decodes to no command, whatever the ports carry: the encoding of a command
has no reserved selector. -/
theorem decode_reserved {op : Selector} (p : Ports) (h : ReservedSelector op) :
    decode ⟨op, p⟩ = .error (.reserved op) := by
  rcases decode_cases ⟨op, p⟩ with he | ⟨i, _, hsel⟩
  · exact he
  · exact absurd (hsel ▸ h) (encode_not_reserved i)

/-- A command whose selector is reserved stops the step when it stands next (R90). -/
theorem step_reserved {s : State} {a : Agent} {cmd : Command} {rest : List Event} {op : Selector}
    (h : s.inbox = .command a cmd :: rest) (hd : decode cmd = .error (.reserved op)) :
    step s = .refused (.reserved op) := by
  simp only [step, fetch, h, hd]

/-! ### The rights of the agents (R84, R85) -/

/-- The row of the rights table that the gate of each command checks. -/
def rightsRow : Instr → Rights
  | .rdAc | .rdPc | .rdMq | .rdSr | .rdMa | .rdMb | .rdL | .rdRun | .rdLac
  | .rdIf | .rdDf | .rdIb | .rdSf | .rdUf | .rdUb | .rdUi | .xaInstr _ | .xaData _
  | .intAcceptable | .rdIntState | .rdIntCount | .memRd _ => .read
  | .wrAc _ | .wrPc _ | .wrMq _ | .wrMa _ | .wrMb _ | .wrL _ | .wrLac _
  | .wrDf _ | .wrIb _ | .wrUb _ | .wrUi _ | .memWr _ _ => .coreWrite
  | .wrRun v => .runSwitch (bool01 v)
  | .wrIf _ | .wrUf _ | .wrSf _ | .snapLoad _ => .hostHalted
  | .wrSr _ => .hostAnytime
  | .branchOrCall | .intEntry | .intReturn _ _ | .intDisable | .intEnableDeferred => .coreOnly
  | .intCommit | .poll | .devDispatch _ _ => .coreActive
  | .intPost | .intWithdraw => .deviceOnly
  | .devRegister _ _ _ _ | .sysConfigure _ | .sysStart | .devPowerUp _ => .hostConfig
  | .devMount _ _ | .devMountLabel _ _ => .hostMount
  | .devPowerDown | .snapSave => .hostAlways
  | .sysReset | .devInitAll => .resetActive

/-- Every command passes the gate, with its row of the table. -/
theorem exec_eq_command (i : Instr) (s : State) :
    ∃ body, exec i s = command (rightsRow i) s body := by
  cases i
  all_goals simp only [exec]; exact ⟨_, rfl⟩

theorem agent_ne_device_iff (a : Agent) : a ≠ .device ↔ a = .core ∨ a = .host := by
  cases a <;> decide

/-- The gate admits a command exactly where the rights table lets its agent issue it. -/
theorem permits_rightsRow_iff (i : Instr) (s : State) :
    permits (rightsRow i) s = true ↔ Claims.mayIssue i s := by
  cases i <;> simp [permits, rightsRow, Claims.mayIssue, agent_ne_device_iff, bool01]

/-- A command that its agent may not issue is refused (R85). -/
theorem exec_not_mayIssue {i : Instr} {s : State} (hf : s.fatal = none)
    (h : ¬ Claims.mayIssue i s) : exec i s = .refused .permission := by
  obtain ⟨body, hexec⟩ := exec_eq_command i s
  rw [hexec]
  exact command_refused hf (by simpa [← permits_rightsRow_iff] using h)

/-- Where the gate admits a command, a refusal comes from its body. -/
theorem body_refused {row : Rights} {s : State} {body : State → Outcome} {r : Refusal}
    (hf : s.fatal = none) (hp : permits row s = true) (h : command row s body = .refused r) :
    body s = .refused r :=
  command_runs (body := body) hf hp ▸ h

theorem forEachDevice_done_ne_refused {h : Handler} {f : DeviceRecord → Nat → Option DState}
    {s : State} {go : State → State} {r : Refusal} :
    forEachDevice h f s (fun t => done (go t)) ≠ .refused r := by
  unfold forEachDevice
  split <;> exact fun hr => by cases hr

theorem mountRecord_ne_refused {r : DeviceRecord} {path : String} {s : State} {e : Refusal} :
    mountRecord r path s ≠ .refused e := by
  unfold mountRecord
  split <;> exact fun hr => by cases hr

/-- The commands whose own body refuses with `Permission` what the rights table admits: a start
outside `PHASE = Active` (R119), a second power-up (R214), a dispatch (R216). -/
theorem permission_of_mayIssue {i : Instr} {s : State} (hf : s.fatal = none)
    (hi : Claims.mayIssue i s) (h : exec i s = .refused .permission) :
    (∃ v, i = .wrRun v ∧ v ≠ 0 ∧ s.phase ≠ .active) ∨
    (∃ argv, i = .devPowerUp argv ∧ s.pwr = true) ∨ ∃ u c, i = .devDispatch u c := by
  have hp := (permits_rightsRow_iff i s).2 hi
  cases i
  case devDispatch u c => exact .inr (.inr ⟨u, c, rfl⟩)
  all_goals
    simp only [exec] at h
    have hbody := body_refused hf hp h
  case wrRun v =>
    split at hbody
    · next hstart => exact .inl ⟨v, rfl, by simpa [bool01] using hstart.1, hstart.2⟩
    · cases hbody
  case devPowerUp argv =>
    split at hbody
    · next hpwr => exact .inr (.inl ⟨argv, rfl, hpwr⟩)
    · exact absurd hbody forEachDevice_done_ne_refused
  case devPowerDown | devInitAll | sysReset => exact absurd hbody forEachDevice_done_ne_refused
  case devMount | devMountLabel =>
    split at hbody
    · cases hbody
    · exact absurd hbody mountRecord_ne_refused
  case devRegister =>
    split at hbody
    · cases hbody
    · split at hbody <;> cases hbody
  case xaInstr | xaData | memRd | memWr | intReturn | wrIf | wrDf | wrIb | wrSf | wrUf | wrUb | wrUi |
      poll =>
    split at hbody <;> cases hbody
  all_goals cases hbody

/-! ### Operands outside their range (R87) -/

theorem within_eq_false {n : Nat} {x : Int} (h : x < 0 ∨ (n : Int) ≤ x) : within n x = false := by
  rw [Bool.eq_false_iff, ne_eq, within_iff]
  omega

theorem inMemory_eq_false {e : Ema} {xa : Int}
    (h : xa < 0 ∨ (if e = .on then 32768 else 4096) ≤ xa) : inMemory e xa = false :=
  within_eq_false (by cases e <;> simpa [memWords] using h)

theorem isOpCode_eq_false {p : Params} {c : Int} (h : c < 0 ∨ 2 ^ p.opcWidth ≤ c) :
    isOpCode p c = false :=
  within_eq_false (by exact_mod_cast h)

/-- One operand outside its range is enough for the two of a return (R144). -/
theorem isField_and_eq_false {f g : Int} (h : f < 0 ∨ 8 ≤ f ∨ g < 0 ∨ 8 ≤ g) :
    (isField f && isField g) = false := by
  rw [Bool.eq_false_iff, ne_eq, Bool.and_eq_true, isField_iff, isField_iff]
  omega

/-- A command whose agent may issue it, but whose operands fail the check of its body, is refused. -/
theorem command_check_fails {row : Rights} {s : State} {check : State → Bool}
    {body : State → Outcome} {r : Refusal} (hf : s.fatal = none) (hp : permits row s = true)
    (hc : check s = false) :
    command row s (fun s => if check s then body s else .refused r) = .refused r := by
  rw [command_runs hf hp, hc]
  rfl

/-- The reason a command with an operand outside its range is refused for (R85). -/
def rangeRefusal : Instr → Refusal
  | .memRd _ | .memWr _ _ => .addrRange
  | _ => .operand

/-- A command whose agent may issue it, but with an operand outside the range of R87, is refused: the
check of its body is `Instr.wellFormed`. -/
theorem exec_not_wellFormed {i : Instr} {s : State} (hf : s.fatal = none)
    (hi : Claims.mayIssue i s) (hw : i.wellFormed (memWords s.ema) s.params.opcWidth = false) :
    exec i s = .refused (rangeRefusal i) := by
  have hp := (permits_rightsRow_iff i s).2 hi
  cases i
  case xaInstr | xaData | intReturn | wrIf | wrDf | wrIb | wrSf | wrUf | wrUb | wrUi | memRd | memWr |
      devDispatch =>
    simp only [exec]
    exact command_check_fails hf hp hw
  all_goals cases hw

/-! ### The reads of the interrupt controller (R185, R187, R188) -/

section
variable {s : State} (hr : s.agent = .core ∨ s.agent = .host)
include hr

theorem exec_intAcceptable : exec .intAcceptable s = giveNum (acceptable s).toNat s :=
  command_read hr _

theorem exec_rdIntState : exec .rdIntState s = giveNum (istCode s.ist) s :=
  command_read hr _

theorem exec_rdIntCount : exec .rdIntCount s = giveNum s.irq s :=
  command_read hr _

end

/-! ### The commands of a dispatch handler (R84, R216, R317) -/

theorem exec_intPost {s : State} (hf : s.fatal = none) (ha : s.agent = .device) :
    exec .intPost s = .next (postRequest s) := by
  simp only [exec, execIntPost, command_deviceOnly hf ha]

theorem exec_intWithdraw {s : State} (hf : s.fatal = none) (ha : s.agent = .device) :
    exec .intWithdraw s = .next (withdrawRequest s) := by
  simp only [exec, execIntWithdraw, command_deviceOnly hf ha]

/-- A dispatch with a registered unit and a code in range runs the unit's handler. -/
theorem exec_devDispatch {s : State} {u c : Nat} {r : DeviceRecord} (hf : s.fatal = none)
    (ha : s.agent = .core) (hp : s.phase = .active) (hc : c < 2 ^ s.params.opcWidth)
    (hu : findUnit s.reg u = some r) : exec (.devDispatch u c) s = dispatchTo r c s := by
  have hcode : isOpCode s.params c = true := (within_natCast _ c).trans (decide_eq_true hc)
  simp only [exec, execDevDispatch, command_coreActive hf ha hp, hcode, if_true, hu,
    Int.toNat_natCast]

/-- A dispatch whose handler comes to a stuck command is stuck (log 22). -/
theorem dispatchTo_fault {r : DeviceRecord} {c : Nat} {s t : State} {d : DState} {k : Instr}
    {pre post : List Instr} {f : Fault}
    (hdraw : dispatchOutcome s r c s.draws = some (d, pre ++ k :: post))
    (hpre : runHandler pre s.drew = .next t) (ht : t.fatal = none)
    (hk : handlerCommand k t = .fault f) : dispatchTo r c s = .fault f := by
  have hrun : runHandler (pre ++ k :: post) s.drew = .fault f := by
    rw [runHandler_append hpre ht]
    simp only [runHandler, hk]
  simp only [dispatchTo, hdraw, hrun]

/-- A command other than those R84 and R317 single out is performed as the core's own: it is passed
on to its meaning, or it is one of the host's, which the core may not issue. -/
theorem handlerCommand_eq_exec {k : Instr} {s : State} (hf : s.fatal = none) (ha : s.agent = .core)
    (hpoll : k ≠ .poll) (hcommit : k ≠ .intCommit) (hdisp : ∀ u c, k ≠ .devDispatch u c)
    (hpost : k ≠ .intPost) (hwithdraw : k ≠ .intWithdraw) (hentry : k ≠ .intEntry)
    (hdisable : k ≠ .intDisable) : handlerCommand k s = exec k s := by
  cases k
  case poll | intCommit | intPost | intWithdraw | intEntry | intDisable => contradiction
  case devDispatch u c => exact absurd rfl (hdisp u c)
  case wrSr | wrIf | wrSf | wrUf | devRegister | devMount | devMountLabel | devPowerUp |
      devPowerDown | sysConfigure | sysStart | snapSave | snapLoad =>
    exact (exec_not_mayIssue hf (by simp [Claims.mayIssue, ha])).symm
  all_goals rfl

end Sys2Proof.Machine

namespace Sys2Proof.Claims
open Sys2Proof.Machine

/-- Settles O52: a command's selector is that of its encoding, so its encoding is the selector with
the encoding's ports. -/
theorem decodeInvertsEncode : Obligations.DecodeInvertsEncode := by
  unfold Obligations.DecodeInvertsEncode
  refine ⟨decode_encode, fun c i h => ?_⟩
  rcases decode_cases c with he | ⟨j, hj, hsel⟩
  · rw [h] at he; cases he
  · obtain rfl : i = j := by rw [h] at hj; injection hj
    exact ⟨hsel, hsel ▸ decode_encode i⟩

/-- Settles O38: a stuck command sticks in the list of its handler, a post or withdrawal is the same
for every agent, and the rest is passed on to the core's commands. -/
theorem handlerCommandsHaveTheCoresRights : Obligations.HandlerCommandsHaveTheCoresRights := by
  unfold Obligations.HandlerCommandsHaveTheCoresRights
  rintro k s hf ⟨ha, hp⟩
  refine ⟨?_, ?_, ?_, ?_, handlerCommand_eq_exec hf ha⟩
  · intro u c r d pre post t f hc hu hdraw hpre ht hk
    rw [exec_devDispatch hf ha hp hc hu]
    exact dispatchTo_fault hdraw hpre ht hk
  · rintro (rfl | rfl | ⟨u, c, rfl⟩) <;> rfl
  · rintro (rfl | rfl)
    · exact ⟨_, exec_intPost hf rfl, congrArg _ (postRequest_agent ha)⟩
    · exact ⟨_, exec_intWithdraw hf rfl, congrArg _ (withdrawRequest_agent ha)⟩
  · rintro (rfl | rfl) <;> rfl

/-- Settles O51: the gate refuses what the table does, and past the gate only three commands refuse
with `Permission`. -/
theorem rightsDecideRefusal : Obligations.RightsDecideRefusal := by
  unfold Obligations.RightsDecideRefusal
  exact fun _ _ hf => ⟨exec_not_mayIssue hf, permission_of_mayIssue hf⟩

/-- Settles O53: no command is encoded with a reserved selector, so none is decoded from one. -/
theorem reservedSelectorsAreRefused : Obligations.ReservedSelectorsAreRefused := by
  unfold Obligations.ReservedSelectorsAreRefused
  intro op p s a rest hop
  have hd : decode ⟨op, p⟩ = .error (.reserved op) := decode_reserved p hop
  exact ⟨hd, fun h => step_reserved h hd⟩

/-- Settles O20: each operand is outside the range that `Instr.wellFormed` gives it. -/
theorem operandsOutOfRangeAreRefused : Obligations.OperandsOutOfRangeAreRefused := by
  unfold Obligations.OperandsOutOfRangeAreRefused
  intro s x y u hf
  exact ⟨fun hr hx => ⟨exec_not_wellFormed hf hr (within_eq_false hx),
      exec_not_wellFormed hf hr (within_eq_false hx)⟩,
    fun hr hx => exec_not_wellFormed hf hr (inMemory_eq_false hx),
    fun hw hx => exec_not_wellFormed hf hw (inMemory_eq_false hx),
    fun hw hx => ⟨exec_not_wellFormed hf hw (within_eq_false hx),
      exec_not_wellFormed hf hw (within_eq_false hx)⟩,
    fun hw hx => ⟨exec_not_wellFormed hf hw (within_eq_false hx),
      exec_not_wellFormed hf hw (within_eq_false hx)⟩,
    fun hh hx => exec_not_wellFormed hf hh (within_eq_false hx),
    fun hh hx => exec_not_wellFormed hf hh (within_eq_false hx),
    fun hh hx => exec_not_wellFormed hf hh (within_eq_false hx),
    fun hc hxy => exec_not_wellFormed hf hc (isField_and_eq_false hxy),
    fun hc hy => exec_not_wellFormed hf hc (isOpCode_eq_false hy)⟩

/-- Settles O27: each is a read, of the acceptance predicate, the state's code and the counter. -/
theorem controllerReadsAnswer : Obligations.ControllerReadsAnswer := by
  unfold Obligations.ControllerReadsAnswer
  intro s hr
  rw [exec_intAcceptable hr, exec_rdIntState hr, exec_rdIntCount hr]
  refine ⟨fun hist hirq => ?_, fun hnot => ?_, fun hist => ?_, fun hist => ?_, fun hist => ?_, rfl⟩
  · rw [(acceptable_iff s).2 ⟨hist, hirq⟩]; rfl
  · have hacc : acceptable s = false := by
      rw [Bool.eq_false_iff, ne_eq, acceptable_iff]
      rintro ⟨hist, hirq⟩
      exact hnot.elim (absurd hist) (Nat.ne_of_gt hirq)
    rw [hacc]; rfl
  all_goals rw [hist]; rfl

/-- Settles O54: the decoder computes each word. -/
theorem tableWordsDecode : Obligations.TableWordsDecode := by
  unfold Obligations.TableWordsDecode
  decide

end Sys2Proof.Claims

/-! ## Register File (40_register_file.md): what a read answers and what a write stores -/

namespace Sys2Proof.Machine

/-! ### The store functions in numbers (R80, R102, R120) -/

theorem bool01_iff {v : Int} : bool01 v = true ↔ v ≠ 0 := decide_eq_true_iff

theorem bool01_toNat (v : Int) : (bool01 v).toNat = if v = 0 then 0 else 1 := by
  by_cases h : v = 0 <;> simp [bool01, h]

theorem bit01_toNat (v : Int) : (bit01 v).toNat = if v = 0 then 0 else 1 :=
  (BitVec.toNat_ofBool (bool01 v)).trans (bool01_toNat v)

/-- The link and the accumulator that `WR_LAC` stores, as one number. -/
theorem lacParts_mask13 (v : Int) :
    (((lacLink (mask13 v)).toNat * 4096 + (lacWord (mask13 v)).toNat : Nat) : Int) = v % 8192 := by
  rw [← packLac_toNat_add, packLac_split, mask13_toNat]

/-- The size of `MA`'s range, written out (R6). -/
theorem two_pow_maBits (w : MaWidth) : 2 ^ maBits w = if w = .w12 then 4096 else 32768 := by
  cases w <;> rfl

/-! ### The reads (R103 to R111) -/

section
variable {s : State} (hr : s.agent = .core ∨ s.agent = .host)
include hr

theorem exec_rdAc : exec .rdAc s = giveNum s.ac.toNat s := command_read hr _

theorem exec_rdPc : exec .rdPc s = giveNum s.pc.toNat s := command_read hr _

theorem exec_rdMq : exec .rdMq s = giveNum s.mq.toNat s := command_read hr _

theorem exec_rdSr : exec .rdSr s = giveNum s.sr s := command_read hr _

theorem exec_rdMa : exec .rdMa s = giveNum s.ma s := command_read hr _

theorem exec_rdMb : exec .rdMb s = giveNum s.mb.toNat s := command_read hr _

theorem exec_rdL : exec .rdL s = giveNum s.l.toNat s := command_read hr _

theorem exec_rdRun : exec .rdRun s = giveNum s.run.toNat s := command_read hr _

theorem exec_rdLac : exec .rdLac s = giveNum (s.l.toNat * 4096 + s.ac.toNat) s := by
  rw [← packLac_toNat_add]
  exact command_read hr _

end

/-! ### The writes of the core (R112 to R114, R116 to R118, R120) -/

section
variable {s : State} (hf : s.fatal = none) (hw : s.agent = .core ∨ s.agent = .host ∧ s.run = false)
  (v : Int)
include hf hw

theorem exec_wrAc : exec (.wrAc v) s = done { s with ac := mask12 v } := by
  simp only [exec, execWrAc, command_coreWrite hf hw]

theorem exec_wrPc : exec (.wrPc v) s = done { s with pc := mask12 v } := by
  simp only [exec, execWrPc, command_coreWrite hf hw]

theorem exec_wrMq : exec (.wrMq v) s = done { s with mq := mask12 v } := by
  simp only [exec, execWrMq, command_coreWrite hf hw]

theorem exec_wrMa : exec (.wrMa v) s = done { s with ma := maskTo (maBits s.params.maWidth) v } := by
  simp only [exec, execWrMa, command_coreWrite hf hw]

theorem exec_wrMb : exec (.wrMb v) s = done { s with mb := mask12 v } := by
  simp only [exec, execWrMb, command_coreWrite hf hw]

theorem exec_wrL : exec (.wrL v) s = done { s with l := bit01 v } := by
  simp only [exec, execWrL, command_coreWrite hf hw]

theorem exec_wrLac :
    exec (.wrLac v) s = done { s with l := lacLink (mask13 v), ac := lacWord (mask13 v) } := by
  simp only [exec, execWrLac, command_coreWrite hf hw]

end

/-! ### The switch register and the run flag (R115, R119) -/

theorem exec_wrSr {s : State} (v : Int) (hf : s.fatal = none) (hh : s.agent = .host) :
    exec (.wrSr v) s = done { s with sr := maskTo s.params.srWidth v } := by
  have hperm : permits .hostAnytime s = true := decide_eq_true hh
  simp only [exec, execWrSr, command_runs hf hperm]

/-- What an admitted `WR_RUN` does: the start check comes after the gate. -/
theorem exec_wrRun_of_mayIssue {s : State} {v : Int} (hf : s.fatal = none)
    (hi : Claims.mayIssue (.wrRun v) s) :
    exec (.wrRun v) s = if v ≠ 0 ∧ s.phase ≠ .active then .refused .permission
      else done { s with run := bool01 v } := by
  have hperm : permits (.runSwitch (bool01 v)) s = true := (permits_rightsRow_iff (.wrRun v) s).2 hi
  simp only [exec, execWrRun, command_runs hf hperm, bool01_iff]

/-- A halt, or a start in `PHASE = Active`, sets the flag. -/
theorem exec_wrRun {s : State} {v : Int} (hf : s.fatal = none) (hi : Claims.mayIssue (.wrRun v) s)
    (hv : v = 0 ∨ s.phase = .active) : exec (.wrRun v) s = done { s with run := bool01 v } :=
  (exec_wrRun_of_mayIssue hf hi).trans (if_neg fun hstart => hv.elim hstart.1 hstart.2)

/-- A start outside `PHASE = Active` is refused, by the gate or by the command itself. -/
theorem exec_wrRun_start_refused {s : State} {v : Int} (hf : s.fatal = none) (hv : v ≠ 0)
    (hp : s.phase ≠ .active) : exec (.wrRun v) s = .refused .permission := by
  by_cases hi : Claims.mayIssue (.wrRun v) s
  · exact (exec_wrRun_of_mayIssue hf hi).trans (if_pos ⟨hv, hp⟩)
  · exact exec_not_mayIssue hf hi

end Sys2Proof.Machine

namespace Sys2Proof.Claims
open Sys2Proof.Machine

/-- Settles O8: the state after each write is named, its agent is still one that may read, and the
read answers the number of the stored value. -/
theorem readAfterWriteReturnsTheStoredValue : Obligations.ReadAfterWriteReturnsTheStoredValue := by
  unfold Obligations.ReadAfterWriteReturnsTheStoredValue
  intro s v hf hw
  have hr : MayRead s := hw.imp_right And.left
  refine ⟨⟨_, _, exec_wrAc hf hw v, rfl, exec_rdAc hr, mask12_toNat v⟩,
    ⟨_, _, exec_wrPc hf hw v, rfl, exec_rdPc hr, mask12_toNat v⟩,
    ⟨_, _, exec_wrMq hf hw v, rfl, exec_rdMq hr, mask12_toNat v⟩,
    ⟨_, _, exec_wrMb hf hw v, rfl, exec_rdMb hr, mask12_toNat v⟩,
    ⟨_, exec_wrL hf hw v, rfl, ?link⟩,
    fun hv => ⟨_, exec_wrRun hf (hw.imp_right (.imp_right .inl)) hv, rfl, ?run⟩,
    ⟨_, _, exec_wrLac hf hw v, rfl, exec_rdLac hr, lacParts_mask13 v⟩⟩
  case link => rw [← bit01_toNat]; exact exec_rdL hr
  case run => rw [← bool01_toNat]; exact exec_rdRun hr

/-- Settles O1: each read passes the gate and gives its register's number. -/
theorem registerReadsAnswerTheirRegister : Obligations.RegisterReadsAnswerTheirRegister := by
  unfold Obligations.RegisterReadsAnswerTheirRegister
  intro s hr
  refine ⟨exec_rdAc hr, exec_rdPc hr, exec_rdMq hr, exec_rdSr hr, exec_rdMa hr, exec_rdMb hr,
    exec_rdL hr, ?_, exec_rdLac hr⟩
  rw [exec_rdRun hr]
  cases s.run <;> rfl

/-- Settles O2: the word is the 12-bit store function's. -/
theorem registerWritesStoreModulo4096 : Obligations.RegisterWritesStoreModulo4096 := by
  unfold Obligations.RegisterWritesStoreModulo4096
  intro s v hf hw
  exact ⟨mask12 v, mask12_toNat v, exec_wrAc hf hw v, exec_wrPc hf hw v, exec_wrMq hf hw v,
    exec_wrMb hf hw v⟩

/-- Settles O3: the host's write is performed, and the rights table refuses any other agent's. -/
theorem switchRegisterIsTheHosts : Obligations.SwitchRegisterIsTheHosts := by
  unfold Obligations.SwitchRegisterIsTheHosts
  intro s v hf
  refine ⟨fun hh => ⟨maskTo s.params.srWidth v, ?_, exec_wrSr v hf hh⟩,
    fun hh => exec_not_mayIssue hf hh⟩
  exact_mod_cast maskTo_toInt s.params.srWidth v

/-- Settles O4: the stored number is `v` modulo the size of `MA`'s range. -/
theorem addressRegisterStoresModuloItsWidth : Obligations.AddressRegisterStoresModuloItsWidth := by
  unfold Obligations.AddressRegisterStoresModuloItsWidth
  intro s v hf hw
  refine ⟨maskTo (maBits s.params.maWidth) v, ?_, exec_wrMa hf hw v⟩
  rw [maskTo_toInt, two_pow_maBits, Nat.cast_ite, Nat.cast_ofNat, Nat.cast_ofNat]

/-- Settles O5: the stored bit is the coerced value. -/
theorem linkWriteCoerces : Obligations.LinkWriteCoerces := by
  unfold Obligations.LinkWriteCoerces
  exact fun s v hf hw => ⟨bit01 v, bit01_toNat v, exec_wrL hf hw v⟩

/-- Settles O6: an admitted halt or start sets the flag, and a start outside `PHASE = Active` is
refused whoever issues it. -/
theorem runFlagIsSetOnlyWhileActive : Obligations.RunFlagIsSetOnlyWhileActive := by
  unfold Obligations.RunFlagIsSetOnlyWhileActive
  exact fun s v hf => ⟨exec_wrRun hf, exec_wrRun_start_refused hf⟩

/-- Settles O7: the link and the accumulator are the two parts of the 13-bit store function's
value. -/
theorem linkAndAccumulatorWriteTogether : Obligations.LinkAndAccumulatorWriteTogether := by
  unfold Obligations.LinkAndAccumulatorWriteTogether
  exact fun s v hf hw =>
    ⟨lacLink (mask13 v), lacWord (mask13 v), lacParts_mask13 v, exec_wrLac hf hw v⟩

end Sys2Proof.Claims

/-! ## Memory Extension (41_memory_extension.md): the fields, the extended address, and the way into
and out of an interrupt -/

namespace Sys2Proof.Machine

/-! ### The save field in numbers (R81) -/

theorem saveDataField_toNat (x : SaveField) : (saveDataField x).toNat = x.toNat % 8 := by
  simp [saveDataField]

theorem saveInstrField_toNat (x : SaveField) : (saveInstrField x).toNat = x.toNat / 8 % 8 := by
  simp [saveInstrField, Nat.shiftRight_eq_div_pow]

/-! ### Operands in range (R87) -/

@[simp] theorem isField_natCast (k : Nat) : isField (k : Int) = decide (k < 8) :=
  within_natCast 8 k

@[simp] theorem isBit_natCast (k : Nat) : isBit (k : Int) = decide (k < 2) :=
  within_natCast 2 k

@[simp] theorem isSave_natCast (k : Nat) : isSave (k : Int) = decide (k < 128) :=
  within_natCast 128 k

/-! ### Updates under the feature switch (R159) -/

theorem done_ifEma_off {s : State} {f : State → State} (he : s.ema = .off) :
    done (s.ifEma f) = .next (s.answer .ok) := by
  rw [State.ifEma_off he]; rfl

theorem done_ifEma_on {s : State} {f : State → State} (he : s.ema = .on) :
    done (s.ifEma f) = .next ((f s).answer .ok) := by
  rw [State.ifEma_on he]; rfl

/-! ### The field reads (R145 to R151) -/

section
variable {s : State} (hr : s.agent = .core ∨ s.agent = .host)
include hr

theorem exec_rdIf : exec .rdIf s = giveNum (meuValue s.ema s.ifr.toNat) s := command_read hr _

theorem exec_rdDf : exec .rdDf s = giveNum (meuValue s.ema s.df.toNat) s := command_read hr _

theorem exec_rdIb : exec .rdIb s = giveNum (meuValue s.ema s.ib.toNat) s := command_read hr _

theorem exec_rdSf : exec .rdSf s = giveNum (meuValue s.ema s.sf.toNat) s := command_read hr _

theorem exec_rdUf : exec .rdUf s = giveNum (meuValue s.ema s.uf.toNat) s := command_read hr _

theorem exec_rdUb : exec .rdUb s = giveNum (meuValue s.ema s.ub.toNat) s := command_read hr _

theorem exec_rdUi : exec .rdUi s = giveNum (meuValue s.ema s.ui.toNat) s := command_read hr _

/-! ### An extended address of more than 12 bits (R140, R141) -/

theorem exec_xaInstr_outside {a : Int} (h : isAddr12 a = false) :
    exec (.xaInstr a) s = .refused .operand := by
  simp only [exec, execXaInstr, command_read hr, h, Bool.false_eq_true, if_false]

theorem exec_xaData_outside {a : Int} (h : isAddr12 a = false) :
    exec (.xaData a) s = .refused .operand := by
  simp only [exec, execXaData, command_read hr, h, Bool.false_eq_true, if_false]

end

/-! ### The operations of the core (R142 to R144) -/

section
variable {s : State} (hf : s.fatal = none) (ha : s.agent = .core)
include hf ha

theorem exec_branchOrCall : exec .branchOrCall s = done s.promote := by
  simp only [exec, execBranchOrCall, command_coreOnly hf ha]

theorem exec_intEntry : exec .intEntry s = done s.enterInterrupt := by
  simp only [exec, execIntEntry, command_coreOnly hf ha]

theorem exec_intReturn {f g : Nat} (hlt : f < 8) (hg : g < 8) :
    exec (.intReturn f g) s =
      done (s.returnFromInterrupt (BitVec.ofNat 3 f) (BitVec.ofNat 3 g)) := by
  simp only [exec, execIntReturn, command_coreOnly hf ha, isField_natCast, hlt, hg, decide_true,
    Bool.and_self, if_true, BitVec.ofInt_natCast]

/-- The return of the pseudo-command `INT_RETURN_SF`: its operands are the two fields saved in `x`
(R93). -/
theorem exec_intReturn_saveField (x : SaveField) :
    exec (.intReturn (x.toNat % 8) (x.toNat / 8 % 8)) s =
      done (s.returnFromInterrupt (saveDataField x) (saveInstrField x)) := by
  have hret := exec_intReturn hf ha (saveDataField x).isLt (saveInstrField x).isLt
  rw [BitVec.ofNat_toNat, BitVec.ofNat_toNat, BitVec.setWidth_eq, BitVec.setWidth_eq,
    saveDataField_toNat, saveInstrField_toNat] at hret
  exact_mod_cast hret

end

/-! ### The field writes of the core (R153, R154, R157, R158) -/

section
variable {s : State} (hf : s.fatal = none) (hw : s.agent = .core ∨ s.agent = .host ∧ s.run = false)
include hf hw

theorem exec_wrDf {f : Nat} (hlt : f < 8) :
    exec (.wrDf f) s = done (s.ifEma fun s => { s with df := BitVec.ofNat 3 f }) := by
  simp only [exec, execWrDf, command_coreWrite hf hw, isField_natCast, hlt, decide_true, if_true,
    BitVec.ofInt_natCast]

theorem exec_wrIb {f : Nat} (hlt : f < 8) :
    exec (.wrIb f) s = done (s.ifEma fun s => { s with ib := BitVec.ofNat 3 f }) := by
  simp only [exec, execWrIb, command_coreWrite hf hw, isField_natCast, hlt, decide_true, if_true,
    BitVec.ofInt_natCast]

theorem exec_wrUb {b : Nat} (hlt : b < 2) :
    exec (.wrUb b) s = done (s.ifEma fun s => { s with ub := BitVec.ofNat 1 b }) := by
  simp only [exec, execWrUb, command_coreWrite hf hw, isBit_natCast, hlt, decide_true, if_true,
    BitVec.ofInt_natCast]

theorem exec_wrUi {b : Nat} (hlt : b < 2) :
    exec (.wrUi b) s = done (s.ifEma fun s => { s with ui := BitVec.ofNat 1 b }) := by
  simp only [exec, execWrUi, command_coreWrite hf hw, isBit_natCast, hlt, decide_true, if_true,
    BitVec.ofInt_natCast]

end

/-! ### The field writes of the halted host (R152, R155, R156) -/

section
variable {s : State} (hf : s.fatal = none) (hh : s.agent = .host ∧ s.run = false)
include hf hh

theorem exec_wrIf {f : Nat} (hlt : f < 8) :
    exec (.wrIf f) s = done (s.ifEma fun s => { s with ifr := BitVec.ofNat 3 f }) := by
  simp only [exec, execWrIf, command_hostHalted hf hh, isField_natCast, hlt, decide_true, if_true,
    BitVec.ofInt_natCast]

theorem exec_wrSf {v : Nat} (hlt : v < 128) :
    exec (.wrSf v) s = done (s.ifEma fun s => { s with sf := BitVec.ofNat 7 v }) := by
  simp only [exec, execWrSf, command_hostHalted hf hh, isSave_natCast, hlt, decide_true, if_true,
    BitVec.ofInt_natCast]

theorem exec_wrUf {b : Nat} (hlt : b < 2) :
    exec (.wrUf b) s = done (s.ifEma fun s => { s with uf := BitVec.ofNat 1 b }) := by
  simp only [exec, execWrUf, command_hostHalted hf hh, isBit_natCast, hlt, decide_true, if_true,
    BitVec.ofInt_natCast]

end

end Sys2Proof.Machine

namespace Sys2Proof.Claims
open Sys2Proof.Machine

/-! ### With EMA off (R159) -/

section
variable {s : State} (he : s.ema = .off)
include he

theorem extendedAddresses_off {a : Nat} (hr : MayRead s) (hlt : a < 4096) :
    exec (.xaInstr a) s = .next (valueState s a) ∧ exec (.xaData a) s = .next (valueState s a) := by
  rw [exec_xaInstr hr hlt, exec_xaData hr hlt, he]
  exact ⟨rfl, rfl⟩

theorem branchOrCall_off (hf : s.fatal = none) (ha : s.agent = .core) :
    exec .branchOrCall s = .next (okState s) :=
  (exec_branchOrCall hf ha).trans (done_ifEma_off he)

theorem intEntry_off (hf : s.fatal = none) (ha : s.agent = .core) :
    exec .intEntry s = .next (okState s) :=
  (exec_intEntry hf ha).trans (done_ifEma_off he)

theorem intReturn_off {f g : Nat} (hf : s.fatal = none) (ha : s.agent = .core) (hlt : f < 8)
    (hg : g < 8) : exec (.intReturn f g) s = .next (okState s) :=
  (exec_intReturn hf ha hlt hg).trans (done_ifEma_off he)

theorem coreFieldWrites_off {f b : Nat} (hf : s.fatal = none) (hw : MayWrite s) (hlt : f < 8)
    (hb : b < 2) :
    exec (.wrDf f) s = .next (okState s) ∧ exec (.wrIb f) s = .next (okState s) ∧
    exec (.wrUb b) s = .next (okState s) ∧ exec (.wrUi b) s = .next (okState s) :=
  ⟨(exec_wrDf hf hw hlt).trans (done_ifEma_off he), (exec_wrIb hf hw hlt).trans (done_ifEma_off he),
    (exec_wrUb hf hw hb).trans (done_ifEma_off he), (exec_wrUi hf hw hb).trans (done_ifEma_off he)⟩

theorem hostFieldWrites_off {f v b : Nat} (hf : s.fatal = none) (hh : HostHalted s) (hlt : f < 8)
    (hv : v < 128) (hb : b < 2) :
    exec (.wrIf f) s = .next (okState s) ∧ exec (.wrSf v) s = .next (okState s) ∧
    exec (.wrUf b) s = .next (okState s) :=
  ⟨(exec_wrIf hf hh hlt).trans (done_ifEma_off he), (exec_wrSf hf hh hv).trans (done_ifEma_off he),
    (exec_wrUf hf hh hb).trans (done_ifEma_off he)⟩

end

/-- Settles O21: the entry packs the context into the save field, the return unpacks it into the
data field and the buffers, and the branch copies the buffers. -/
theorem entryThenReturnRestoresTheContext : Obligations.EntryThenReturnRestoresTheContext := by
  unfold Obligations.EntryThenReturnRestoresTheContext
  intro s hf ha he
  refine ⟨_, (exec_intEntry hf ha).trans (done_ifEma_on he), fun s2 hf2 ha2 he2 hsf => ?_⟩
  replace hsf : s2.sf = packSave s.uf s.ifr s.df := hsf
  have hdf : saveDataField s2.sf = s.df := by rw [hsf, saveDataField_packSave]
  have hif : saveInstrField s2.sf = s.ifr := by rw [hsf, saveInstrField_packSave]
  have huf : saveUser s2.sf = s.uf := by rw [hsf, saveUser_packSave]
  have hread : exec .rdSf s2 = .next (valueState s2 s2.sf.toNat) := by
    rw [exec_rdSf (.inl ha2), he2]; rfl
  have hreturn := exec_intReturn_saveField (s := valueState s2 s2.sf.toNat) hf2 ha2 s2.sf
  refine ⟨_, _, hread, hreturn.trans (done_ifEma_on he2), hdf, hif, huf,
    fun s4 hf4 ha4 he4 hib hub => ?_⟩
  exact ⟨_, (exec_branchOrCall hf4 ha4).trans (done_ifEma_on he4), hib.trans hif, hub.trans huf⟩

/-- Settles O12: each read passes the gate and gives its field under the feature switch. -/
theorem fieldReadsAnswerTheirField : Obligations.FieldReadsAnswerTheirField := by
  unfold Obligations.FieldReadsAnswerTheirField
  intro s hr
  rw [exec_rdIf hr, exec_rdDf hr, exec_rdIb hr, exec_rdSf hr, exec_rdUf hr, exec_rdUb hr,
    exec_rdUi hr]
  refine ⟨fun he => ?_, fun he => ?_⟩ <;> rw [he] <;> exact ⟨rfl, rfl, rfl, rfl, rfl, rfl, rfl⟩

/-- Settles O13: with EMA on the extended address is a sum, the field's bits being above the
address's. -/
theorem extendedAddressPutsTheFieldAbove : Obligations.ExtendedAddressPutsTheFieldAbove := by
  unfold Obligations.ExtendedAddressPutsTheFieldAbove
  intro s a hr
  refine ⟨fun hlt he => ?_, fun hlt he => extendedAddresses_off he hr hlt, fun hge => ?_⟩
  · rw [exec_xaInstr hr hlt, exec_xaData hr hlt, he, extendedAddr_on _ hlt, extendedAddr_on _ hlt]
    exact ⟨rfl, rfl⟩
  · have hout : isAddr12 (a : Int) = false := by simpa using hge
    exact ⟨exec_xaInstr_outside hr hout, exec_xaData_outside hr hout⟩

/-- Settles O14: the promotion, under the feature switch. -/
theorem branchPromotesTheBuffers : Obligations.BranchPromotesTheBuffers := by
  unfold Obligations.BranchPromotesTheBuffers
  exact fun s hf ha => ⟨fun he => (exec_branchOrCall hf ha).trans (done_ifEma_on he),
    fun he => branchOrCall_off he hf ha⟩

/-- Settles O15: the saved value is the packed context. -/
theorem interruptEntrySavesAndClears : Obligations.InterruptEntrySavesAndClears := by
  unfold Obligations.InterruptEntrySavesAndClears
  exact fun s hf ha => ⟨fun he => ⟨packSave s.uf s.ifr s.df, packSave_toNat_add s.uf s.ifr s.df,
      (exec_intEntry hf ha).trans (done_ifEma_on he)⟩,
    fun he => intEntry_off he hf ha⟩

/-- Settles O16: the fields are the operands, and the user buffer is the saved user flag. -/
theorem interruptReturnRestores : Obligations.InterruptReturnRestores := by
  unfold Obligations.InterruptReturnRestores
  exact fun s f g hf ha hlt hg => ⟨fun he => ⟨BitVec.ofNat 3 f, BitVec.ofNat 3 g, saveUser s.sf,
      Nat.mod_eq_of_lt hlt, Nat.mod_eq_of_lt hg, saveUser_toNat s.sf,
      (exec_intReturn hf ha hlt hg).trans (done_ifEma_on he)⟩,
    fun he => intReturn_off he hf ha hlt hg⟩

/-- Settles O17: an operand in range is the number of the stored field. -/
theorem coreFieldWritesStoreOneField : Obligations.CoreFieldWritesStoreOneField := by
  unfold Obligations.CoreFieldWritesStoreOneField
  exact fun s f b hf hw hlt hb => ⟨fun he => ⟨BitVec.ofNat 3 f, BitVec.ofNat 1 b,
      Nat.mod_eq_of_lt hlt, Nat.mod_eq_of_lt hb,
      (exec_wrDf hf hw hlt).trans (done_ifEma_on he),
      (exec_wrIb hf hw hlt).trans (done_ifEma_on he),
      (exec_wrUb hf hw hb).trans (done_ifEma_on he), (exec_wrUi hf hw hb).trans (done_ifEma_on he)⟩,
    fun he => coreFieldWrites_off he hf hw hlt hb⟩

/-- Settles O18: the halted host's write is performed, and the rights table refuses any other
agent's. -/
theorem hostFieldWritesStoreOneField : Obligations.HostFieldWritesStoreOneField := by
  unfold Obligations.HostFieldWritesStoreOneField
  exact fun s f v b hf hlt hv hb => ⟨fun hh he => ⟨BitVec.ofNat 3 f, BitVec.ofNat 7 v,
      BitVec.ofNat 1 b, Nat.mod_eq_of_lt hlt, Nat.mod_eq_of_lt hv, Nat.mod_eq_of_lt hb,
      (exec_wrIf hf hh hlt).trans (done_ifEma_on he), (exec_wrSf hf hh hv).trans (done_ifEma_on he),
      (exec_wrUf hf hh hb).trans (done_ifEma_on he)⟩,
    fun hh he => hostFieldWrites_off he hf hh hlt hv hb,
    fun hh => ⟨exec_not_mayIssue hf hh, exec_not_mayIssue hf hh, exec_not_mayIssue hf hh⟩⟩

/-- Settles O19: with EMA off no address is extended and no update is made. -/
theorem extendedMemoryAbsentIsIdentity : Obligations.ExtendedMemoryAbsentIsIdentity := by
  unfold Obligations.ExtendedMemoryAbsentIsIdentity
  exact fun s a f g v b hf he hlt hfield hg hv hb => ⟨fun hr => extendedAddresses_off he hr hlt,
    fun ha => ⟨branchOrCall_off he hf ha, intEntry_off he hf ha, intReturn_off he hf ha hfield hg⟩,
    fun hw => coreFieldWrites_off he hf hw hfield hb,
    fun hh => hostFieldWrites_off he hf hh hfield hv hb⟩

end Sys2Proof.Claims

/-! ## Interrupt Controller (42_interrupt_controller.md): the request counter, the deferred enable, and
the poll -/

namespace Sys2Proof.Machine

/-! ### Posts and withdrawals (R180, R181) -/

section
variable {s : State} (hf : s.fatal = none) (ha : s.agent = .device)
include hf ha

theorem exec_intPost_counts (h : s.params.reqMax ≠ some s.irq) :
    exec .intPost s = .next { s with irq := s.irq + 1, result := some .ok } := by
  rw [exec_intPost hf ha]
  rcases postRequest_cases s with ⟨hmax, _⟩ | ⟨_, e⟩
  · exact absurd hmax h
  · rw [e]

theorem exec_intPost_overflows (h : s.params.reqMax = some s.irq) :
    exec .intPost s = .next (s.raiseFatal .reqOverflow) := by
  rw [exec_intPost hf ha]
  rcases postRequest_cases s with ⟨_, e⟩ | ⟨hne, _⟩
  · rw [e]
  · exact absurd h hne

theorem exec_intWithdraw_counts (h : 0 < s.irq) :
    exec .intWithdraw s = .next { s with irq := s.irq - 1, result := some .ok } := by
  rw [exec_intWithdraw hf ha]
  rcases withdrawRequest_cases s with ⟨hzero, _⟩ | ⟨n, hn, e⟩
  · exact absurd hzero (Nat.ne_of_gt h)
  · rw [e, hn, Nat.add_sub_cancel]

theorem exec_intWithdraw_underflows (h : s.irq = 0) :
    exec .intWithdraw s = .next (s.raiseFatal .reqUnderflow) := by
  rw [exec_intWithdraw hf ha]
  rcases withdrawRequest_cases s with ⟨_, e⟩ | ⟨n, hn, _⟩
  · rw [e]
  · exact absurd (hn.symm.trans h) (Nat.succ_ne_zero n)

end

/-! ### The controller's transitions (R182 to R184) -/

theorem commitEnable_of_deferredEnable {s : State} (h : s.ist = .deferredEnable) :
    s.commitEnable = { s with ist := .enabled } := by
  simp only [State.commitEnable, h]

theorem commitEnable_of_not_deferredEnable {s : State} (h : s.ist ≠ .deferredEnable) :
    s.commitEnable = s := by
  unfold State.commitEnable
  split
  · next hd => exact absurd hd h
  · rfl
  · rfl

/-! From Enabled the parameter `ION_WHEN_ENABLED` decides. -/

section
variable {s : State} (h : s.ist = .enabled)
include h

theorem enableDeferred_keep (hion : s.params.ion = .keep) : enableDeferred s = s := by
  simp only [enableDeferred, h, hion]

theorem enableDeferred_defer (hion : s.params.ion = .defer) :
    enableDeferred s = { s with ist := .deferredEnable } := by
  simp only [enableDeferred, h, hion]

theorem enableDeferred_any (hion : s.params.ion = .any) :
    ∃ i, (i = .enabled ∨ i = .deferredEnable) ∧ enableDeferred s = { s.drew with ist := i } := by
  simp only [enableDeferred, h, hion]
  exact ⟨_, ite_eq_or_eq _ _ _, rfl⟩

end

section
variable {s : State} (hf : s.fatal = none) (ha : s.agent = .core)
include hf ha

theorem exec_intDisable : exec .intDisable s = done s.disableInterrupts := by
  simp only [exec, execIntDisable, command_coreOnly hf ha]

theorem exec_intEnableDeferred : exec .intEnableDeferred s = done (enableDeferred s) := by
  simp only [exec, execIntEnableDeferred, command_coreOnly hf ha]

theorem exec_intCommit (hp : s.phase = .active) : exec .intCommit s = done s.commitEnable := by
  simp only [exec, execIntCommit, command_coreActive hf ha hp]

/-! ### The poll (R185, R186) -/

theorem exec_poll_taken (hp : s.phase = .active) (hist : s.ist = .enabled) (hirq : 0 < s.irq) :
    exec .poll s = .next (s.takeInterrupt.answer (.okValue .taken)) := by
  simp only [exec, execPoll, command_coreActive hf ha hp, (acceptable_iff s).2 ⟨hist, hirq⟩, if_true]

theorem exec_poll_notTaken (hp : s.phase = .active) (h : s.ist ≠ .enabled ∨ s.irq = 0) :
    exec .poll s = .next (s.commitEnable.answer (.okValue .notTaken)) := by
  have hacc : ¬ acceptable s = true := by
    rw [acceptable_iff]
    rintro ⟨hist, hirq⟩
    exact h.elim (absurd hist) (Nat.ne_of_gt hirq)
  simp only [exec, execPoll, command_coreActive hf ha hp, if_neg hacc]

/-- The poll after a deferred enable takes nothing, whatever the counter is, and commits (R189). -/
theorem exec_poll_deferredEnable (hp : s.phase = .active) (h : s.ist = .deferredEnable) :
    exec .poll s = .next { s with ist := .enabled, result := some (.okValue .notTaken) } := by
  rw [exec_poll_notTaken hf ha hp (.inl (by simp [h])), commitEnable_of_deferredEnable h]
  rfl

end

end Sys2Proof.Machine

namespace Sys2Proof.Claims
open Sys2Proof.Machine

/-! ### Sequences of posts and withdrawals (R191) -/

/-- A post below the bound and a withdrawal above 0 let the sequence go on, the counter having moved
by one. -/
theorem runCounter_cons {b : Bool} (l : List Bool) {s : State} (hf : s.fatal = none)
    (ha : s.agent = .device) (hroom : b = true → s.params.reqMax ≠ some s.irq)
    (hpos : b = false → 0 < s.irq) :
    ∃ n, n + [b].count false = s.irq + [b].count true ∧
      runCounter (b :: l) s = runCounter l { s with irq := n, result := some .ok } := by
  cases b with
  | true =>
    refine ⟨s.irq + 1, rfl, ?_⟩
    simp only [runCounter, if_true, exec_intPost_counts hf ha (hroom rfl)]
  | false =>
    refine ⟨s.irq - 1, Nat.sub_add_cancel (hpos rfl), ?_⟩
    simp only [runCounter, Bool.false_eq_true, if_false, exec_intWithdraw_counts hf ha (hpos rfl)]

/-- From any count, a sequence that never takes the counter below 0 and whose posts fit under REQ_MAX
completes, and moves the counter by its posts and withdrawals. -/
theorem runCounter_counts (l : List Bool) {s : State} (hf : s.fatal = none) (ha : s.agent = .device)
    (hmax : ∀ m, s.params.reqMax = some m → s.irq + l.count true ≤ m)
    (hprefix : ∀ p, p <+: l → p.count false ≤ s.irq + p.count true) :
    ∃ t, runCounter l s = .next t ∧ t.fatal = none ∧ t.agent = .device ∧
      t.irq + l.count false = s.irq + l.count true := by
  induction l generalizing s with
  | nil => exact ⟨s, rfl, hf, ha, rfl⟩
  | cons b l ih =>
    have hcount (a : Bool) (p : List Bool) : (b :: p).count a = [b].count a + p.count a :=
      List.count_append (l₁ := [b])
    have hroom : b = true → s.params.reqMax ≠ some s.irq := by
      rintro rfl h
      have hfit := hmax _ h
      rw [List.count_cons_self] at hfit
      omega
    have hpos : b = false → 0 < s.irq := by
      rintro rfl
      exact hprefix [false] (List.prefix_append [false] l)
    obtain ⟨n, hn, hstep⟩ := runCounter_cons l hf ha hroom hpos
    have hmax' (m) (h : s.params.reqMax = some m) : n + l.count true ≤ m := by
      have := hcount true l ▸ hmax m h
      omega
    have hprefix' (p) (hp : p <+: l) : p.count false ≤ n + p.count true := by
      have := hprefix (b :: p) (List.cons_prefix_cons.2 ⟨rfl, hp⟩)
      rw [hcount, hcount true] at this
      omega
    obtain ⟨t, hrun, htf, hta, hirq⟩ :=
      ih (s := { s with irq := n, result := some .ok }) hf ha hmax' hprefix'
    refine ⟨t, hstep.trans hrun, htf, hta, ?_⟩
    rw [hcount, hcount true]
    dsimp only at hirq
    omega

/-- Settles O24: the count from 0, at the end of which an even sequence is at 0 again. -/
theorem counterEqualsPostsMinusWithdrawals : Obligations.CounterEqualsPostsMinusWithdrawals := by
  unfold Obligations.CounterEqualsPostsMinusWithdrawals
  intro l s hf ha hzero hmax hprefix
  obtain ⟨t, hrun, htf, hta, hirq⟩ := runCounter_counts l hf ha
    (by simpa [hzero] using hmax) (by simpa [hzero] using hprefix)
  rw [hzero, Nat.zero_add] at hirq
  exact ⟨t, hrun, htf, hirq, fun heq => exec_intWithdraw_underflows htf hta (by omega)⟩

/-- Settles O30: the first poll finds DeferredEnable and commits, the later one finds Enabled. -/
theorem deferredEnableWaitsOneInstruction : Obligations.DeferredEnableWaitsOneInstruction := by
  unfold Obligations.DeferredEnableWaitsOneInstruction
  rintro s hf ⟨ha, _⟩ hist
  have henable := enableDeferred_of_not_enabled (s := s) (by simp [hist])
  refine ⟨_, (exec_intEnableDeferred hf ha).trans (congrArg done henable),
    fun s2 hf2 ⟨ha2, hp2⟩ hist2 => ?_⟩
  refine ⟨_, exec_poll_deferredEnable hf2 ha2 hp2 hist2, rfl, rfl,
    fun s4 hf4 ⟨ha4, hp4⟩ hist4 hirq4 => ?_⟩
  exact ⟨_, exec_poll_taken hf4 ha4 hp4 hist4 hirq4, rfl⟩

/-- Settles O23: the request counter, at its two bounds and between them. -/
theorem postsAndWithdrawalsCount : Obligations.PostsAndWithdrawalsCount := by
  unfold Obligations.PostsAndWithdrawalsCount
  exact fun s hf ha => ⟨exec_intPost_counts hf ha, exec_intPost_overflows hf ha,
    exec_intWithdraw_counts hf ha, exec_intWithdraw_underflows hf ha⟩

/-- Settles O25: the disable has one outcome, the commit a case for DeferredEnable. -/
theorem disableAndCommitMoveTheController : Obligations.DisableAndCommitMoveTheController := by
  unfold Obligations.DisableAndCommitMoveTheController
  intro s hf ha
  refine ⟨exec_intDisable hf ha, fun hp hist => ?_, fun hp hist => ?_⟩
  · exact (exec_intCommit hf ha hp).trans (congrArg done (commitEnable_of_deferredEnable hist))
  · exact (exec_intCommit hf ha hp).trans (congrArg done (commitEnable_of_not_deferredEnable hist))

/-- Settles O26: the parameter is looked at from Enabled alone, and `Any` draws one of two states. -/
theorem enableDeferredMovesTheController : Obligations.EnableDeferredMovesTheController := by
  unfold Obligations.EnableDeferredMovesTheController
  intro s hf ha
  rw [exec_intEnableDeferred hf ha]
  refine ⟨fun hist => ?_, fun hist hion => ?_, fun hist hion => ?_, fun hist hion => ?_⟩
  · rw [enableDeferred_of_not_enabled hist]; rfl
  · rw [enableDeferred_keep hist hion]; rfl
  · rw [enableDeferred_defer hist hion]; rfl
  · obtain ⟨i, hi, hany⟩ := enableDeferred_any hist hion
    rw [hany]
    exact ⟨i, s.draws + 1, hi, rfl⟩

/-- Settles O28: what is not acceptable is not taken, and the commit moves DeferredEnable alone. -/
theorem pollWithoutAcceptanceCommits : Obligations.PollWithoutAcceptanceCommits := by
  unfold Obligations.PollWithoutAcceptanceCommits
  rintro s hf ⟨ha, hp⟩
  refine ⟨exec_poll_deferredEnable hf ha hp, fun h => ?_⟩
  have hnot : s.ist ≠ .enabled ∨ s.irq = 0 := h.imp (by simp +contextual) And.right
  have hcommit : s.ist ≠ .deferredEnable := by rcases h with h | ⟨h, _⟩ <;> simp [h]
  rw [exec_poll_notTaken hf ha hp hnot, commitEnable_of_not_deferredEnable hcommit]
  rfl

end Sys2Proof.Claims

/-! ## Device Registry (43_device_registry.md): registering and mounting, the handlers over the
registry, and the two ways a device changes the block -/

namespace Sys2Proof.Machine

/-! ### Finding a record (R43, R213, R220) -/

/-- The record reached by its unit is the first of that unit. -/
theorem findUnit_append_cons {pre post : List DeviceRecord} {r : DeviceRecord} {u : Nat}
    (hr : r.unit = u) (hpre : ∀ x ∈ pre, x.unit ≠ u) : findUnit (pre ++ r :: post) u = some r :=
  List.find?_eq_some_iff_append.2 ⟨by simpa using hr, pre, post, rfl, by simpa using hpre⟩

/-- The record reached by its label is the first with that label. -/
theorem findLabel_append_cons {pre post : List DeviceRecord} {r : DeviceRecord} {lbl : String}
    (hr : r.label = lbl) (hpre : ∀ x ∈ pre, x.label ≠ lbl) :
    findLabel (pre ++ r :: post) lbl = some r :=
  List.find?_eq_some_iff_append.2 ⟨by simpa using hr, pre, post, rfl, by simpa using hpre⟩

theorem findLabel_eq_none {reg : List DeviceRecord} {lbl : String} (h : ∀ r ∈ reg, r.label ≠ lbl) :
    findLabel reg lbl = none :=
  List.find?_eq_none.2 (by simpa using h)

/-- Where units are distinct, no record before one has its unit. -/
theorem unit_ne_of_nodup {pre post : List DeviceRecord} {r : DeviceRecord}
    (h : ((pre ++ r :: post).map DeviceRecord.unit).Nodup) : ∀ x ∈ pre, x.unit ≠ r.unit := by
  rw [List.map_append, List.map_cons, List.nodup_append] at h
  exact fun x hx => h.2.2 _ (List.mem_map_of_mem hx) _ (List.mem_cons_self ..)

/-! ### `DEV_REGISTER` (R211, R220) -/

section
variable {s : State} {u : Nat} (nm lbl : String) (dev : DevId) (hf : s.fatal = none)
  (ha : s.agent = .host) (hp : s.phase = .config)
include hf ha hp

theorem exec_devRegister_badUnit (h : s.params.unitCount ≤ u) :
    exec (.devRegister u nm lbl dev) s = fail .badUnit s := by
  simp only [exec, execDevRegister, command_hostConfig hf ha hp, if_pos h]

theorem exec_devRegister_dupUnit {r : DeviceRecord} (h : u < s.params.unitCount)
    (hu : findUnit s.reg u = some r) : exec (.devRegister u nm lbl dev) s = fail .dupUnit s := by
  simp only [exec, execDevRegister, command_hostConfig hf ha hp, if_neg (Nat.not_le.2 h), hu]

theorem exec_devRegister_new (h : u < s.params.unitCount) (hu : findUnit s.reg u = none) :
    exec (.devRegister u nm lbl dev) s = done { s with
      reg := s.reg ++ [⟨u, nm, lbl, dev, none, initialState s.params dev⟩] } := by
  simp only [exec, execDevRegister, command_hostConfig hf ha hp, if_neg (Nat.not_le.2 h), hu]

end

/-- A registration that answers `Ok` was the host's in `PHASE = Config`, of a unit in range. -/
theorem exec_devRegister_ok {s t : State} {u : Nat} {nm lbl : String} {dev : DevId}
    (h : exec (.devRegister u nm lbl dev) s = .next t) (hok : t.result = some .ok) :
    s.fatal = none ∧ s.agent = .host ∧ s.phase = .config ∧ u < s.params.unitCount := by
  simp only [exec, execDevRegister] at h
  rcases command_next h with ⟨c, _, _, rfl⟩ | ⟨hgate, hperm, hbody⟩
  · simp at hok
  · have hf : s.fatal = none := hgate.resolve_right (by simp [survivesFatal])
    obtain ⟨ha, hp⟩ : s.agent = .host ∧ s.phase = .config := by simpa [permits] using hperm
    refine ⟨hf, ha, hp, Nat.not_le.1 fun hbad => ?_⟩
    rw [if_pos hbad] at hbody
    rw [fail_next hbody] at hok
    simp at hok

/-! ### `DEV_MOUNT` and `DEV_MOUNT_LABEL` (R212, R213) -/

section
variable {r : DeviceRecord} {path : String} {s : State}

theorem mountRecord_mounted {d : DState}
    (h : mountOutcome s.params r path s.draws = some (.mounted d)) :
    mountRecord r path s = done { s.drew with
      reg := updateUnit r.unit (fun r => { r with dstate := d, mounted := some path }) s.reg } := by
  simp only [mountRecord, h]

theorem mountRecord_openFailed (h : mountOutcome s.params r path s.draws = some .openFailed) :
    mountRecord r path s = fail .openFailed s.drew := by
  simp only [mountRecord, h]

theorem mountRecord_stuck (h : mountOutcome s.params r path s.draws = none) :
    mountRecord r path s = .fault (.noOutcome .mount r.unit) := by
  simp only [mountRecord, h]

/-- A mount whose handler has an outcome completes. -/
theorem mountRecord_completes (h : (mountOutcome s.params r path s.draws).isSome = true) :
    ∃ t, mountRecord r path s = .next t := by
  obtain ⟨o, ho⟩ := Option.isSome_iff_exists.1 h
  cases o with
  | mounted d => exact ⟨_, mountRecord_mounted ho⟩
  | openFailed => exact ⟨_, mountRecord_openFailed ho⟩

end

section
variable {s : State} (path : String) (hf : s.fatal = none) (ha : s.agent = .host)
  (hp : s.phase ≠ .down)
include hf ha hp

theorem exec_devMount {u : Nat} {r : DeviceRecord} (hu : findUnit s.reg u = some r) :
    exec (.devMount u path) s = mountRecord r path s := by
  simp only [exec, execDevMount, command_hostMount hf ha hp, hu]

theorem exec_devMount_unknown {u : Nat} (hu : findUnit s.reg u = none) :
    exec (.devMount u path) s = fail .unknownUnit s := by
  simp only [exec, execDevMount, command_hostMount hf ha hp, hu]

theorem exec_devMountLabel {lbl : String} {r : DeviceRecord} (hl : findLabel s.reg lbl = some r) :
    exec (.devMountLabel lbl path) s = mountRecord r path s := by
  simp only [exec, execDevMountLabel, command_hostMount hf ha hp, hl]

theorem exec_devMountLabel_unknown {lbl : String} (hl : findLabel s.reg lbl = none) :
    exec (.devMountLabel lbl path) s = fail .unknownLabel s := by
  simp only [exec, execDevMountLabel, command_hostMount hf ha hp, hl]

end

/-! ### A handler over the registry (R214, R215, R217) -/

/-- Handlers that go through leave each record the outcome of its own draw. -/
theorem drawEach_drawnInOrder {f : DeviceRecord → Nat → Option DState} {reg reg' : List DeviceRecord}
    {n m : Nat} (h : drawEach f n reg = .ok (reg', m)) : Claims.DrawnInOrder f n reg reg' := by
  induction reg generalizing n reg' with
  | nil => cases h; exact ⟨rfl, by simp⟩
  | cons r rest ih =>
    simp only [drawEach] at h
    split at h
    · cases h
    · next d hd =>
      split at h
      · cases h
      · next q m' hq =>
        cases h
        obtain ⟨hlen, hdrawn⟩ := ih hq
        refine ⟨by simp [hlen], fun k x hx => ?_⟩
        cases k with
        | zero => cases hx; exact ⟨d, hd, rfl⟩
        | succ k => rw [show n + (k + 1) = n + 1 + k by omega]; exact hdrawn k x hx

/-- The first handler with no outcome stops the run over the registry, and its unit is named. -/
theorem drawEach_stuck {f : DeviceRecord → Nat → Option DState} {pre post : List DeviceRecord}
    {r : DeviceRecord} {n : Nat} (hr : f r (n + pre.length) = none)
    (hpre : ∀ k x, pre[k]? = some x → (f x (n + k)).isSome = true) :
    drawEach f n (pre ++ r :: post) = .error r.unit := by
  induction pre generalizing n with
  | nil =>
    have hr : f r n = none := hr
    simp only [List.nil_append, drawEach, hr]
  | cons x pre ih =>
    obtain ⟨d, hd⟩ : ∃ d, f x n = some d := Option.isSome_iff_exists.1 (hpre 0 x rfl)
    have hrest : drawEach f (n + 1) (pre ++ r :: post) = .error r.unit := by
      refine ih ?_ fun k y hy => ?_
      · rw [← hr, List.length_cons]; congr 1; omega
      · rw [show n + 1 + k = n + (k + 1) by omega]; exact hpre (k + 1) y hy
    simp only [List.cons_append, drawEach, hd, hrest]

section
variable {f : DeviceRecord → Nat → Option DState} {s : State} (h : Handler) (go : State → Outcome)

/-- Where every handler has an outcome at every draw, the run goes on with the drawn registry. -/
theorem forEachDevice_completes (hall : ∀ r ∈ s.reg, ∀ n, (f r n).isSome = true) :
    ∃ reg n, Claims.DrawnInOrder f s.draws s.reg reg ∧
      forEachDevice h f s go = go { s with reg := reg, draws := n } := by
  obtain ⟨reg, hreg⟩ := drawEach_ok hall s.draws
  exact ⟨reg, s.draws + s.reg.length, drawEach_drawnInOrder hreg, by simp only [forEachDevice, hreg]⟩

theorem forEachDevice_stuck {u : Nat} (hstuck : Claims.StuckAt f s.draws s.reg u) :
    forEachDevice h f s go = .fault (.noOutcome h u) := by
  obtain ⟨pre, r, post, hreg, rfl, hr, hpre⟩ := hstuck
  simp only [forEachDevice, hreg, drawEach_stuck hr hpre]

end

theorem exec_devPowerUp {s : State} (argv : List String) (hf : s.fatal = none)
    (ha : s.agent = .host) (hp : s.phase = .config) (hpwr : s.pwr = false) :
    exec (.devPowerUp argv) s = forEachDevice .power (powerOutcome s.params .up argv) s
      fun t => done { t with pwr := true } := by
  simp only [exec, execDevPowerUp, command_hostConfig hf ha hp, hpwr, Bool.false_eq_true, if_false]

/-- A second power-up is refused, by the gate or by the command itself. -/
theorem exec_devPowerUp_again {s : State} (argv : List String) (hf : s.fatal = none)
    (hpwr : s.pwr = true) : exec (.devPowerUp argv) s = .refused .permission := by
  by_cases hi : Claims.mayIssue (.devPowerUp argv) s
  · obtain ⟨ha, hp⟩ := hi
    simp only [exec, execDevPowerUp, command_hostConfig hf ha hp, hpwr, if_true]
  · exact exec_not_mayIssue hf hi

theorem exec_devPowerDown {s : State} (ha : s.agent = .host) :
    exec .devPowerDown s = forEachDevice .power (powerOutcome s.params .down []) s
      fun t => done { t with run := false, phase := .down } := by
  simp only [exec, execDevPowerDown, command_hostAlways ha]

theorem exec_devInitAll {s : State} (hf : s.fatal = none)
    (ha : s.agent = .core ∨ s.agent = .host) (hp : s.phase = .active) :
    exec .devInitAll s = forEachDevice .init (initOutcome s.params) s done := by
  simp only [exec, execDevInitAll, command_resetActive hf ha hp]

/-! ### The request counter between and at its bounds (R180, R181) -/

section
variable {s : State}

theorem postRequest_counts (h : s.params.reqMax ≠ some s.irq) :
    postRequest s = { s with irq := s.irq + 1, result := some .ok } :=
  (postRequest_cases s).elim (fun ⟨hmax, _⟩ => absurd hmax h) And.right

theorem postRequest_overflows (h : s.params.reqMax = some s.irq) :
    postRequest s = s.raiseFatal .reqOverflow :=
  (postRequest_cases s).elim And.right fun ⟨hne, _⟩ => absurd h hne

theorem withdrawRequest_counts (h : 0 < s.irq) :
    withdrawRequest s = { s with irq := s.irq - 1, result := some .ok } := by
  rcases withdrawRequest_cases s with ⟨hzero, _⟩ | ⟨n, hn, e⟩
  · exact absurd hzero (Nat.ne_of_gt h)
  · rw [e, hn, Nat.add_sub_cancel]

theorem withdrawRequest_underflows (h : s.irq = 0) :
    withdrawRequest s = s.raiseFatal .reqUnderflow := by
  rcases withdrawRequest_cases s with ⟨_, e⟩ | ⟨n, hn, _⟩
  · exact e
  · exact absurd (hn.symm.trans h) (Nat.succ_ne_zero n)

end

/-! ### The commands of a dispatch handler, in order (R216) -/

theorem handlerCommand_intWithdraw_counts {s : State} (h : 0 < s.irq) :
    handlerCommand .intWithdraw s = .next { s with irq := s.irq - 1, result := some .ok } :=
  congrArg Host.Outcome.next (withdrawRequest_counts h)

theorem handlerCommand_intWithdraw_underflows {s : State} (h : s.irq = 0) :
    handlerCommand .intWithdraw s = .next (s.raiseFatal .reqUnderflow) :=
  congrArg Host.Outcome.next (withdrawRequest_underflows h)

section
variable {k : Instr} {pre post ks : List Instr} {s t t' : State}

theorem runHandler_cons (hk : handlerCommand k s = .next t) (ht : t.fatal = none) :
    runHandler (k :: ks) s = runHandler ks t := by
  simp only [runHandler, hk, ht, Option.isSome_none, Bool.false_eq_true, if_false]

/-- No command is performed after one that raised a fatal error. -/
theorem runHandler_append_fatal (hpre : runHandler pre s = .next t) (ht : t.fatal = none)
    (hk : handlerCommand k t = .next t') (ht' : t'.fatal ≠ none) :
    runHandler (pre ++ k :: post) s = .next t' := by
  rw [runHandler_append hpre ht]
  simp only [runHandler, hk, Option.isSome_iff_ne_none.2 ht', if_true]

/-- A refused command refuses the whole dispatch (log 22). -/
theorem runHandler_append_refused {e : Refusal} (hpre : runHandler pre s = .next t)
    (ht : t.fatal = none) (hk : handlerCommand k t = .refused e) :
    runHandler (pre ++ k :: post) s = .refused .permission := by
  rw [runHandler_append hpre ht]
  simp only [runHandler, hk]

end

/-! ### `DEV_DISPATCH` (R216) -/

theorem exec_devDispatch_unregistered {s : State} {u c : Nat} (hf : s.fatal = none)
    (ha : s.agent = .core) (hp : s.phase = .active) (hc : c < 2 ^ s.params.opcWidth)
    (hu : findUnit s.reg u = none) :
    exec (.devDispatch u c) s = .next (s.raiseFatal .dispatchUnregistered) := by
  have hcode : isOpCode s.params c = true := (within_natCast _ c).trans (decide_eq_true hc)
  simp only [exec, execDevDispatch, command_coreActive hf ha hp, hcode, if_true, hu]

section
variable {r : DeviceRecord} {c : Nat} {s t : State} {d : DState} {cmds : List Instr}

theorem dispatchTo_stuck (h : dispatchOutcome s r c s.draws = none) :
    dispatchTo r c s = .fault (.noOutcome .dispatch r.unit) := by
  simp only [dispatchTo, h]

variable (hdraw : dispatchOutcome s r c s.draws = some (d, cmds))
include hdraw

theorem dispatchTo_done (hrun : runHandler cmds s.drew = .next t) (ht : t.fatal = none) :
    dispatchTo r c s = done (t.setDState r.unit d) := by
  simp only [dispatchTo, hdraw, hrun, ht, Option.isSome_none, Bool.false_eq_true, if_false]

theorem dispatchTo_fatal (hrun : runHandler cmds s.drew = .next t) (ht : t.fatal ≠ none) :
    dispatchTo r c s = .next t := by
  simp only [dispatchTo, hdraw, hrun, Option.isSome_iff_ne_none.2 ht, if_true]

theorem dispatchTo_refused {e : Refusal} (hrun : runHandler cmds s.drew = .refused e) :
    dispatchTo r c s = .refused e := by
  simp only [dispatchTo, hdraw, hrun]

end

/-! ### The commands of a device step, in order (R221) -/

theorem count_cons_eq_add (a k : StepCmd) (ks : List StepCmd) :
    (k :: ks).count a = [k].count a + ks.count a :=
  List.count_append (l₁ := [k])

/-- Once a command in range has moved the counter, the others are in range from there. -/
theorem staysInRange_tail {p : Params} {irq n : Nat} {k : StepCmd} {ks : List StepCmd}
    (h : Claims.StaysInRange p irq (k :: ks))
    (hn : n + [k].count .withdraw = irq + [k].count .post) : Claims.StaysInRange p n ks := by
  intro q hq
  obtain ⟨hlow, hhigh⟩ := h (k :: q) (List.cons_prefix_cons.2 ⟨rfl, hq⟩)
  simp only [count_cons_eq_add _ k q] at hlow hhigh
  exact ⟨by omega, fun m hm => by have := hhigh m hm; omega⟩

/-- A command in range moves the counter by one. -/
theorem stepCommand_counts {k : StepCmd} {ks : List StepCmd} {s : State}
    (h : Claims.StaysInRange s.params s.irq (k :: ks)) :
    ∃ n, n + [k].count .withdraw = s.irq + [k].count .post ∧
      stepCommand k s = { s with irq := n, result := some .ok } := by
  obtain ⟨hlow, hhigh⟩ := h [k] (List.prefix_append [k] ks)
  cases k with
  | post =>
    have hroom : s.params.reqMax ≠ some s.irq := fun hmax => Nat.not_succ_le_self _ (hhigh _ hmax)
    exact ⟨s.irq + 1, rfl, postRequest_counts hroom⟩
  | withdraw =>
    have hpos : 0 < s.irq := hlow
    exact ⟨s.irq - 1, Nat.sub_add_cancel hpos, withdrawRequest_counts hpos⟩

theorem runStep_cons {k : StepCmd} {ks : List StepCmd} {s : State}
    (hk : (stepCommand k s).fatal = none) : runStep (k :: ks) s = runStep ks (stepCommand k s) := by
  simp only [runStep, hk, Option.isSome_none, Bool.false_eq_true, if_false]

/-- No command is performed after one that raised a fatal error. -/
theorem runStep_cons_fatal {k : StepCmd} {ks : List StepCmd} {s : State}
    (hk : (stepCommand k s).fatal ≠ none) : runStep (k :: ks) s = stepCommand k s := by
  simp only [runStep, Option.isSome_iff_ne_none.2 hk, if_true]

/-- Commands in range move the counter by their posts and withdrawals, and the step goes on from
there with whatever commands come after them. -/
theorem runStep_counts {cmds : List StepCmd} {s : State} (hf : s.fatal = none)
    (h : Claims.StaysInRange s.params s.irq cmds) :
    ∃ n r, n + cmds.count .withdraw = s.irq + cmds.count .post ∧
      ∀ post, runStep (cmds ++ post) s = runStep post { s with irq := n, result := r } := by
  induction cmds generalizing s with
  | nil => exact ⟨s.irq, s.result, rfl, fun _ => rfl⟩
  | cons k ks ih =>
    obtain ⟨m, hm, hk⟩ := stepCommand_counts h
    obtain ⟨n, r, hn, hrun⟩ :=
      ih (s := { s with irq := m, result := some .ok }) hf (staysInRange_tail h hm)
    refine ⟨n, r, ?_, fun post => ?_⟩
    · rw [count_cons_eq_add, count_cons_eq_add .post]
      dsimp only at hn
      omega
    · rw [List.cons_append, runStep_cons (by rw [hk]; exact hf), hk]
      exact hrun post

/-! ### The autonomous device step (R221) -/

theorem deviceStep_not_taken {u : Nat} {s : State}
    (h : s.phase ≠ .active ∨ s.fatal ≠ none ∨ findUnit s.reg u = none) :
    deviceStep u s = .next s := by
  unfold deviceStep
  split
  · next hrun =>
    obtain ⟨hp, hf⟩ := hrun
    have hu : findUnit s.reg u = none := (h.resolve_left (absurd hp)).resolve_left (absurd hf)
    simp only [hu]
  · rfl

theorem deviceStep_taken {u : Nat} {s : State} {r : DeviceRecord} (hp : s.phase = .active)
    (hf : s.fatal = none) (hu : findUnit s.reg u = some r) : deviceStep u s = stepRecord r s := by
  simp only [deviceStep, hp, hf, and_self, if_true, hu]

section
variable {r : DeviceRecord} {s : State} {d : DState} {cmds : List StepCmd}

theorem stepRecord_stuck (h : stepOutcome s.params r s.draws = none) :
    stepRecord r s = .fault (.noOutcome .step r.unit) := by
  simp only [stepRecord, h]

variable (hdraw : stepOutcome s.params r s.draws = some (d, cmds))
include hdraw

/-- A step that raised no fatal error sets the device's state; the result port keeps what it had. -/
theorem stepRecord_done (h : (runStep cmds s.drew).fatal = none) :
    stepRecord r s =
      .next { (runStep cmds s.drew).setDState r.unit d with result := s.result } := by
  simp only [stepRecord, hdraw, State.steppedTo, h, Option.isSome_none, Bool.false_eq_true, if_false,
    State.drew_result]

theorem stepRecord_fatal (h : (runStep cmds s.drew).fatal ≠ none) :
    stepRecord r s = .next (runStep cmds s.drew) := by
  simp only [stepRecord, hdraw, State.steppedTo, Option.isSome_iff_ne_none.2 h, if_true]

end

/-- A step whose commands stay in range until one raises a fatal error ends with that command. -/
theorem stepRecord_raiseFatal {r : DeviceRecord} {s : State} {d : DState}
    {pre post : List StepCmd} {k : StepCmd} {n : Nat} {c : FatalCode} (hf : s.fatal = none)
    (hdraw : stepOutcome s.params r s.draws = some (d, pre ++ k :: post))
    (hpre : Claims.StaysInRange s.params s.irq pre)
    (hn : n + pre.count .withdraw = s.irq + pre.count .post)
    (hk : ∀ t : State, t.params = s.params → t.irq = n → stepCommand k t = t.raiseFatal c) :
    stepRecord r s = .next (State.raiseFatal { s.drew with irq := n } c) := by
  obtain ⟨m, q, hm, hrun⟩ := runStep_counts (s := s.drew) hf hpre
  obtain rfl : n = m := by
    dsimp only [State.drew_irq] at hm
    omega
  have hlast : runStep (pre ++ k :: post) s.drew =
      State.raiseFatal { s.drew with irq := n, result := q } c := by
    have hraise := hk { s.drew with irq := n, result := q } rfl rfl
    rw [hrun, runStep_cons_fatal (by rw [hraise]; simp), hraise]
  rw [stepRecord_fatal hdraw (by simp [hlast]), hlast]
  rfl

end Sys2Proof.Machine

namespace Sys2Proof.Claims
open Sys2Proof.Machine

/-- Settles O33: the first registration was performed, so its record is the first of its unit and a
second registration finds it. -/
theorem firstRegistrationWins : Obligations.FirstRegistrationWins := by
  unfold Obligations.FirstRegistrationWins
  intro s t u nm lbl nm' lbl' a b hnew h hok
  obtain ⟨hf, ha, hp, hu⟩ := exec_devRegister_ok h hok
  rw [exec_devRegister_new nm lbl a hf ha hp hu (findUnit_eq_none hnew)] at h
  obtain rfl := done_next h
  have hfind := findUnit_append_cons (post := [])
    (r := ⟨u, nm, lbl, a, none, initialState s.params a⟩) rfl hnew
  exact ⟨exec_devRegister_dupUnit nm' lbl' b hf ha hp hu hfind, _, hfind, rfl⟩

/-- Settles O35: the first record with the label is, units being distinct, the record of its unit. -/
theorem mountByLabelMountsTheFirst : Obligations.MountByLabelMountsTheFirst := by
  unfold Obligations.MountByLabelMountsTheFirst
  intro s lbl path hnodup hf ha hp
  refine ⟨fun hnone => exec_devMountLabel_unknown path hf ha hp (findLabel_eq_none hnone),
    fun pre r post hreg hlbl hfirst => ?_⟩
  have hl : findLabel s.reg lbl = some r := hreg ▸ findLabel_append_cons hlbl hfirst
  have hu : findUnit s.reg r.unit = some r :=
    hreg ▸ findUnit_append_cons rfl (unit_ne_of_nodup (hreg ▸ hnodup))
  rw [exec_devMountLabel path hf ha hp hl, exec_devMount path hf ha hp hu]
  exact ⟨rfl, mountRecord_completes⟩

/-- Settles O36: each of the three commands is a run of its handler over the registry. -/
theorem deviceHandlersRunOverTheRegistry : Obligations.DeviceHandlersRunOverTheRegistry := by
  unfold Obligations.DeviceHandlersRunOverTheRegistry
  intro s argv
  refine ⟨fun hf ha hp hpwr hall => ?_, exec_devPowerUp_again argv, fun ha hall => ?_,
    fun hf ha hp hall => ?_, fun u hf ha hp hpwr hstuck => ?_, fun u ha hstuck => ?_,
    fun u hf ha hp hstuck => ?_⟩
  · rw [exec_devPowerUp argv hf ha hp hpwr]
    exact forEachDevice_completes _ _ hall
  · rw [exec_devPowerDown ha]
    exact forEachDevice_completes _ _ hall
  · rw [exec_devInitAll hf ha hp]
    exact forEachDevice_completes _ _ hall
  · rw [exec_devPowerUp argv hf ha hp hpwr]
    exact forEachDevice_stuck _ _ hstuck
  · rw [exec_devPowerDown ha]
    exact forEachDevice_stuck _ _ hstuck
  · rw [exec_devInitAll hf ha hp]
    exact forEachDevice_stuck _ _ hstuck

/-- Settles O37: a dispatch to a record ends as the list of its handler's commands does. -/
theorem dispatchPerformsTheHandlersCommands : Obligations.DispatchPerformsTheHandlersCommands := by
  unfold Obligations.DispatchPerformsTheHandlersCommands
  rintro s u c hf ⟨ha, hp⟩ hc
  refine ⟨fun hnone => exec_devDispatch_unregistered hf ha hp hc (findUnit_eq_none hnone),
    fun r d cmds t hu hdraw hrun ht => ?_, fun r d cmds t hu hdraw hrun ht => ?_,
    fun r d pre k post t t' hu hdraw hpre ht hk ht' => ?_,
    fun r d pre k post t e hu hdraw hpre ht hk => ?_, fun r hu hnone => ?_⟩
  all_goals
    obtain rfl : r.unit = u := (findUnit_mem hu).2
    rw [exec_devDispatch hf ha hp hc hu]
  · exact dispatchTo_done hdraw hrun ht
  · exact dispatchTo_fatal hdraw hrun ht
  · exact dispatchTo_fatal hdraw (runHandler_append_fatal hpre ht hk ht') ht'
  · exact dispatchTo_refused hdraw (runHandler_append_refused hpre ht hk)
  · exact dispatchTo_stuck hnone

/-- Settles O39: the write goes through, and the withdrawal after it ends the handler's list. -/
theorem dispatchWritesAndWithdraws : Obligations.DispatchWritesAndWithdraws := by
  unfold Obligations.DispatchWritesAndWithdraws
  rintro s u c r d hf ⟨ha, hp⟩ hc hu hdraw
  obtain rfl : r.unit = u := (findUnit_mem hu).2
  have hwrite : handlerCommand (.wrAc 0x41) s.drew =
      .next { s.drew with ac := 0x41, result := some .ok } :=
    exec_wrAc (s := s.drew) hf (.inl ha) 0x41
  have hpre : runHandler [.wrAc 0x41] s.drew = .next { s.drew with ac := 0x41, result := some .ok } :=
    runHandler_cons hwrite hf
  rw [exec_devDispatch hf ha hp hc hu]
  refine ⟨fun hirq => ?_, fun hirq => ?_⟩
  · have hwithdraw : handlerCommand .intWithdraw { s.drew with ac := 0x41, result := some .ok } =
        .next { s.drew with ac := 0x41, irq := s.irq - 1, result := some .ok } :=
      handlerCommand_intWithdraw_counts hirq
    exact dispatchTo_done hdraw
      ((runHandler_append hpre hf).trans (runHandler_cons hwithdraw hf)) hf
  · have hwithdraw : handlerCommand .intWithdraw { s.drew with ac := 0x41, result := some .ok } =
        .next (State.raiseFatal { s.drew with ac := 0x41, result := some .ok } .reqUnderflow) :=
      handlerCommand_intWithdraw_underflows hirq
    rw [dispatchTo_fatal hdraw (runHandler_append_fatal hpre hf hwithdraw (by simp)) (by simp)]
    rfl

/-- Settles O40: commands in range leave the count, and the first one out of range raises its fatal
error there. -/
theorem deviceStepChangesOnlyTheCounter : Obligations.DeviceStepChangesOnlyTheCounter := by
  unfold Obligations.DeviceStepChangesOnlyTheCounter
  intro u s
  refine ⟨fun h => deviceStep_not_taken (h.imp_right (.imp_right findUnit_eq_none)),
    fun r hp hf hu hnone => ?_, fun r d cmds hp hf hu hdraw hrange => ?_,
    fun r d pre k post n hp hf hu hdraw hrange hn => ?_⟩
  all_goals
    obtain rfl : r.unit = u := (findUnit_mem hu).2
    rw [deviceStep_taken hp hf hu]
  · exact stepRecord_stuck hnone
  · obtain ⟨n, q, hn, hrun⟩ := runStep_counts (s := s.drew) hf hrange
    have hend : runStep cmds s.drew = { s.drew with irq := n, result := q } :=
      List.append_nil cmds ▸ hrun []
    refine ⟨n, hn, ?_⟩
    rw [stepRecord_done hdraw (by simpa [hend] using hf), hend]
    rfl
  · constructor
    · rintro rfl hzero
      exact stepRecord_raiseFatal hf hdraw hrange hn
        fun t _ hirq => withdrawRequest_underflows (hirq.trans hzero)
    · rintro rfl hmax
      exact stepRecord_raiseFatal hf hdraw hrange hn
        fun t hparams hirq => postRequest_overflows (by rw [hparams, hirq, hmax])

/-- Settles O32: the two configuration errors and the new record. -/
theorem registerAppendsARecord : Obligations.RegisterAppendsARecord := by
  unfold Obligations.RegisterAppendsARecord
  intro s u nm lbl dev hf ha hp
  refine ⟨exec_devRegister_badUnit nm lbl dev hf ha hp, fun hu ⟨r, hr, hunit⟩ => ?_,
    fun hu hnew => exec_devRegister_new nm lbl dev hf ha hp hu (findUnit_eq_none hnew)⟩
  cases hfind : findUnit s.reg u with
  | none => exact absurd (List.mem_map.2 ⟨r, hr, hunit⟩) (findUnit_none hfind)
  | some x => exact exec_devRegister_dupUnit nm lbl dev hf ha hp hu hfind

/-- Settles O34: an unknown unit, and the three outcomes of the record's mount relation. -/
theorem mountAttachesThePath : Obligations.MountAttachesThePath := by
  unfold Obligations.MountAttachesThePath
  intro s u path hf ha hp
  refine ⟨exec_devMount_unknown path hf ha hp, fun r d hu ho => ?_, fun r hu ho => ?_,
    fun r hu ho => ?_⟩
  all_goals
    obtain rfl : r.unit = u := (findUnit_mem hu).2
    rw [exec_devMount path hf ha hp hu]
  · exact mountRecord_mounted ho
  · exact mountRecord_openFailed ho
  · exact mountRecord_stuck ho

end Sys2Proof.Claims

/-! ## Host Interface (44_host_interface.md): configuring and starting the block, and its core images -/

namespace Sys2Proof.Machine

/-! ### `SYS_CONFIGURE` and `SYS_START` (R240, R241) -/

section
variable {s : State} (hf : s.fatal = none) (ha : s.agent = .host) (hp : s.phase = .config)
include hf ha hp

theorem exec_sysConfigure (e : Ema) :
    exec (.sysConfigure e) s = done { s.clearMeu.freshMemory e with ema := e } := by
  simp only [exec, execSysConfigure, command_hostConfig hf ha hp]

theorem exec_sysStart : exec .sysStart s = done { s with phase := .active } := by
  simp only [exec, execSysStart, command_hostConfig hf ha hp]

end

/-- Under `Zero` fresh memory lists no word and nothing is drawn (R240). -/
theorem freshMemory_zero {e : Ema} {s : State} (h : s.params.powerUp = .zero) :
    s.freshMemory e = { s with mem := [] } := by
  simp only [State.freshMemory, h]

/-! ### `SNAP_SAVE` and `SNAP_LOAD` (R243, R244) -/

theorem exec_snapSave {s : State} (ha : s.agent = .host) :
    exec .snapSave s =
      .next (s.answer (.okValue (.image (encodeImage s.params (imageContent s))))) := by
  simp only [exec, execSnapSave, command_hostAlways ha]

/-- In the fatal state a load answers `Fatal(FATAL)`, whoever issues it (R262). -/
theorem exec_snapLoad_fatal {s : State} (img : Image) {code : FatalCode} (hf : s.fatal = some code) :
    exec (.snapLoad img) s = .next (s.answer (.fatal code)) := by
  simp only [exec, execSnapLoad]
  exact command_fatal hf rfl

section
variable {s : State} {img : Image} (hf : s.fatal = none) (hh : s.agent = .host ∧ s.run = false)
include hf hh

theorem exec_snapLoad : exec (.snapLoad img) s = .next (s.loadImage img) := by
  simp only [exec, execSnapLoad, command_hostHalted hf hh]

/-- A load of a valid image gives the state its content (R244). -/
theorem exec_snapLoad_valid {c : ImageContent} (hd : decodeImage s.params img = some c)
    (hv : contentValid s.params s.ema c = true) :
    exec (.snapLoad img) s = .next ((s.loadContent c).answer .ok) := by
  simp only [exec_snapLoad hf hh, State.loadImage, hd, hv, if_true]

/-- A load of an image with no valid content changes nothing but the result port (R247). -/
theorem exec_snapLoad_malformed
    (h : ∀ c, decodeImage s.params img = some c → contentValid s.params s.ema c ≠ true) :
    exec (.snapLoad img) s = .next (s.answer (.err .imageMalformed)) := by
  rw [exec_snapLoad hf hh]
  rcases loadImage_cases s img with ⟨_, hload⟩ | ⟨c, hd, hv, _⟩
  · rw [hload]
  · exact absurd hv (h c hd)

end

/-! ### The checks on a content (R247) -/

/-- The checks of R247 that do not bear on the invariant: the size of memory, the registers and the two
enable bits, which encode a controller state. -/
theorem contentValid_widths {p : Params} {e : Ema} {c : ImageContent}
    (h : contentValid p e c = true) :
    c.words = memWords e ∧ c.ac < 4096 ∧ c.l < 2 ∧ c.pc < 4096 ∧ c.mq < 4096 ∧ c.mb < 4096 ∧
    c.run < 2 ∧ ∃ i, istOfBits c.ie c.idef = some i := by
  simp only [contentValid, Bool.and_eq_true, decide_eq_true_eq, and_assoc,
    Option.isSome_iff_exists] at h
  obtain ⟨_, hwords, _, hac, hl, hpc, hmq, _, _, hmb, hrun, _, hist, _⟩ := h
  exact ⟨hwords, hac, hl, hpc, hmq, hmb, hrun, hist⟩

/-- Memory-extension fields that pass the check are each within their width (R247). -/
theorem imageMeuValid_some {e : Ema} {m : MeuContent} (h : imageMeuValid e (some m) = true) :
    m.ifr < 8 ∧ m.df < 8 ∧ m.ib < 8 ∧ m.sf < 128 ∧ m.uf < 2 ∧ m.ub < 2 ∧ m.ui < 2 := by
  cases e with
  | off => cases h
  | on => simpa only [imageMeuValid, Bool.and_eq_true, decide_eq_true_eq, and_assoc] using h

/-- A content that passes every check is not malformed. -/
theorem not_malformed_of_contentValid {p : Params} {e : Ema} {c : ImageContent}
    (h : contentValid p e c = true) : ¬ Claims.Malformed p e c := by
  obtain ⟨hcells, hsr, hma, hmeu, hirq⟩ := contentValid_parts h
  obtain ⟨hwords, hac, hl, hpc, hmq, hmb, hrun, i, hi⟩ := contentValid_widths h
  have hbits : ¬ (c.ie = 1 ∧ c.idef = 1 ∨ 2 ≤ c.ie ∨ 2 ≤ c.idef) := fun hbad => by
    cases hi.symm.trans (istOfBits_none hbad)
  rintro (bad | bad | bad | bad | bad | bad | bad | bad | bad | bad | ⟨x, hx, bad⟩ | ⟨m, hm, bad⟩ |
    bad | bad | bad | ⟨m, hmax, bad⟩)
  · exact bad (contentValid_ema h)
  · exact bad (hwords.trans (memWords_eq e))
  · exact hac.not_ge bad
  · exact hl.not_ge bad
  · exact hpc.not_ge bad
  · exact hmq.not_ge bad
  · exact hsr.not_ge bad
  · exact hma.not_ge (two_pow_maBits p.maWidth ▸ bad)
  · exact hmb.not_ge bad
  · exact hrun.not_ge bad
  · obtain ⟨hword, haddr⟩ := imageCells_mem hcells hx
    omega
  · rw [hm] at hmeu
    have hwidths := imageMeuValid_some hmeu
    omega
  · exact hbits (.inl bad)
  · exact hbits (.inr (.inl bad))
  · exact hbits (.inr (.inr bad))
  · simp only [irqInRange, hmax, decide_eq_true_eq] at hirq
    omega

/-! ### A content in the state's own types (R245) -/

theorem toNat_ofNat_of_lt {w n : Nat} (h : n < 2 ^ w) : (BitVec.ofNat w n).toNat = n :=
  (BitVec.toNat_ofNat n w).trans (Nat.mod_eq_of_lt h)

/-- A saved run flag is loaded unchanged. -/
theorem decide_toNat_eq_one (b : Bool) : decide (b.toNat = 1) = b := by
  cases b <;> rfl

/-- A loaded run flag is the content's, where that is a bit. -/
theorem toNat_decide_eq_one {n : Nat} (h : n < 2) : (decide (n = 1)).toNat = n := by
  obtain rfl | rfl : n = 0 ∨ n = 1 := by omega
  all_goals rfl

/-- The saved cells hold the word of every address. -/
theorem cellAt_saved (m : Memory) (a : Nat) :
    Claims.cellAt (m.map fun c => (c.1, c.2.toNat)) a = (Memory.read m a).toNat := by
  induction m with
  | nil => rfl
  | cons c m ih =>
    obtain ⟨k, w⟩ := c
    simp only [List.map_cons, Claims.cellAt, Memory.read_cons, ih]
    split <;> rfl

/-- The loaded memory reads as the cells say, where every cell is a word. -/
theorem read_loaded {cells : List (Nat × Nat)} (h : ∀ x ∈ cells, x.2 < 4096) (a : Nat) :
    (Memory.read (cells.map fun x => (x.1, BitVec.ofNat 12 x.2)) a).toNat =
      Claims.cellAt cells a := by
  induction cells with
  | nil => rfl
  | cons x cells ih =>
    obtain ⟨hx, hcells⟩ := List.forall_mem_cons.1 h
    simp only [List.map_cons, Claims.cellAt, Memory.read_cons]
    split
    · exact toNat_ofNat_of_lt hx
    · exact ih hcells

/-! ### Loading a content (R244, R249) -/

/-- A content with the configured feature switch changes the elements of R245 alone. -/
theorem loadContent_eq {s : State} {c : ImageContent} (hema : c.ema = s.ema) :
    let t := s.loadContent c
    t = { s with mem := t.mem, ac := t.ac, l := t.l, pc := t.pc, mq := t.mq, sr := c.sr, ma := c.ma,
                 mb := t.mb, run := t.run, ifr := t.ifr, df := t.df, ib := t.ib, sf := t.sf,
                 uf := t.uf, ub := t.ub, ui := t.ui, ist := t.ist, irq := c.irq } := by
  obtain ⟨_, _, _, _, _, _, _, hmeu, _⟩ := loadMeu_frame s c.meu
  simp only [State.loadContent, hmeu, hema]

/-- Fields within their widths are loaded unchanged. -/
theorem loadMeu_some_toNat (s : State) {e : Ema} {m : MeuContent}
    (h : imageMeuValid e (some m) = true) :
    let t := s.loadMeu (some m)
    t.ifr.toNat = m.ifr ∧ t.df.toNat = m.df ∧ t.ib.toNat = m.ib ∧ t.sf.toNat = m.sf ∧
      t.uf.toNat = m.uf ∧ t.ub.toNat = m.ub ∧ t.ui.toNat = m.ui := by
  obtain ⟨hifr, hdf, hib, hsf, huf, hub, hui⟩ := imageMeuValid_some h
  exact ⟨toNat_ofNat_of_lt hifr, toNat_ofNat_of_lt hdf, toNat_ofNat_of_lt hib,
    toNat_ofNat_of_lt hsf, toNat_ofNat_of_lt huf, toNat_ofNat_of_lt hub,
    toNat_ofNat_of_lt hui⟩

/-- Loading the saved fields gives those of the saved state, with EMA off too, where both states hold
0 (R30). -/
theorem loadMeu_meuContent {x w : State} (hx : x.ema = .off → x.MeuAbsent)
    (hw : x.ema = .off → w.MeuAbsent) :
    w.loadMeu (meuContent x) = { w with
      ifr := x.ifr, df := x.df, ib := x.ib, sf := x.sf, uf := x.uf, ub := x.ub, ui := x.ui } := by
  cases hema : x.ema with
  | off =>
    obtain ⟨hifr, hdf, hib, hsf, huf, hub, hui⟩ := hx hema
    obtain ⟨wifr, wdf, wib, wsf, wuf, wub, wui⟩ := hw hema
    simp only [meuContent, hema, State.loadMeu, hifr.trans wifr.symm, hdf.trans wdf.symm,
      hib.trans wib.symm, hsf.trans wsf.symm, huf.trans wuf.symm, hub.trans wub.symm,
      hui.trans wui.symm]
  | on => simp only [meuContent, hema, State.loadMeu, BitVec.ofNat_toNat, BitVec.setWidth_eq]

/-- Loading the content of a state gives every element of R245 as in that state (R249). -/
theorem loadContent_imageContent {x w : State} (hema : w.ema = x.ema)
    (hx : x.ema = .off → x.MeuAbsent) (hw : w.ema = .off → w.MeuAbsent) :
    w.loadContent (imageContent x) = { w with
      mem := x.mem, ac := x.ac, l := x.l, pc := x.pc, mq := x.mq, sr := x.sr, ma := x.ma,
      mb := x.mb, run := x.run, ifr := x.ifr, df := x.df, ib := x.ib, sf := x.sf, uf := x.uf,
      ub := x.ub, ui := x.ui, ist := x.ist, irq := x.irq } := by
  have hrun : decide ((imageContent x).run = 1) = x.run := decide_toNat_eq_one x.run
  simp only [State.loadContent, hrun]
  simp only [imageContent, loadMeu_meuContent hx (hema ▸ hw), cells_roundTrip, istOfBits_bits,
    Option.getD_some, BitVec.ofNat_toNat, BitVec.setWidth_eq, hema]

end Sys2Proof.Machine

namespace Sys2Proof.Claims
open Sys2Proof.Machine

/-- Settles O44: the answered image is that of the state's own content, which the invariant makes
valid. -/
theorem saveAnswersAnImageOfTheState : Obligations.SaveAnswersAnImageOfTheState := by
  unfold Obligations.SaveAnswersAnImageOfTheState
  intro s ha
  refine ⟨imageContent s, exec_snapSave ha, fun hinv => decodeImage_encodeImage (imageContent_valid hinv),
    rfl, memWords_eq s.ema, cellAt_saved s.mem, rfl, rfl, rfl, rfl, rfl, rfl, rfl, rfl, rfl, rfl, rfl,
    fun hoff => ?_, fun hon => ?_⟩
  · simp only [imageContent, meuContent, hoff]
  · simp only [imageContent, meuContent, hon]

/-- Settles O45: a content that passes the checks is within the widths of the state, so loading it
loses nothing. -/
theorem loadRestoresEveryElement : Obligations.LoadRestoresEveryElement := by
  unfold Obligations.LoadRestoresEveryElement
  intro s img c hf hh hd hv
  obtain ⟨hcells, _, _, hmeu, _⟩ := contentValid_parts hv
  obtain ⟨_, hac, hl, hpc, hmq, hmb, hrun, i, hi⟩ := contentValid_widths hv
  have hist : (s.loadContent c).ist = i := by simp only [State.loadContent, hi, Option.getD_some]
  obtain ⟨hie, hidef⟩ := bits_of_istOfBits hi
  refine ⟨(s.loadContent c).answer .ok, exec_snapLoad_valid hf hh hd hv, ?_,
    read_loaded fun x hx => (imageCells_mem hcells hx).1, toNat_ofNat_of_lt hac,
    toNat_ofNat_of_lt hl, toNat_ofNat_of_lt hpc, toNat_ofNat_of_lt hmq, toNat_ofNat_of_lt hmb,
    toNat_decide_eq_one hrun, hist ▸ hie, hist ▸ hidef, fun m hm => ?_, fun hnone => ?_⟩
  · exact congrArg (State.answer · .ok) (loadContent_eq (contentValid_ema hv))
  · rw [hm] at hmeu
    have hfields := loadMeu_some_toNat s hmeu
    rw [← hm] at hfields
    exact hfields
  · simp only [State.loadContent, hnone, State.loadMeu, State.answer, and_self]

/-- Settles O46: every check that `Malformed` lists is one that a valid content passes. -/
theorem malformedImageIsRejected : Obligations.MalformedImageIsRejected := by
  unfold Obligations.MalformedImageIsRejected
  intro s img hf hh hbad
  exact exec_snapLoad_malformed hf hh fun c hd hv => not_malformed_of_contentValid hv (hbad c hd)

/-- Settles O47: the saved content is valid under the same configuration, so the format gives it back
and the load takes it over. -/
theorem saveThenLoadRestoresTheState : Obligations.SaveThenLoadRestoresTheState := by
  unfold Obligations.SaveThenLoadRestoresTheState
  intro x w hx ha _
  refine ⟨encodeImage x.params (imageContent x), exec_snapSave ha, fun hparams hema hf hh hw => ?_,
    fun code hcode => exec_snapLoad_fatal _ hcode⟩
  have hvalid := imageContent_valid hx
  have ⟨_, _, _, _, habsentX, _⟩ := hx
  have ⟨_, _, _, _, habsentW, _⟩ := hw
  have hdecode : decodeImage w.params (encodeImage x.params (imageContent x)) =
      some (imageContent x) := by rw [hparams, decodeImage_encodeImage hvalid]
  rw [exec_snapLoad_valid hf hh hdecode
    (hparams ▸ hema ▸ hvalid), loadContent_imageContent hema habsentX habsentW]
  rfl

/-- Settles O41: the new memory lists no word under `Zero`, and else is what was drawn. -/
theorem configureSetsTheFeature : Obligations.ConfigureSetsTheFeature := by
  unfold Obligations.ConfigureSetsTheFeature
  intro s e hf ha hp
  rw [exec_sysConfigure hf ha hp, ← memWords_eq]
  cases hpu : s.params.powerUp with
  | zero =>
    rw [freshMemory_zero (s := s.clearMeu) hpu]
    exact ⟨[], s.draws, rfl, fun _ => Memory.read_nil, rfl, rfl⟩
  | arbitrary =>
    obtain ⟨mem, n, hfresh, hwf, hbelow⟩ := freshMemory_frame e s.clearMeu
    rw [hfresh]
    exact ⟨mem, n, rfl, (fun h => nomatch h), hwf, hbelow⟩

/-- Settles O42: the start where the host may issue it, and the four refusals outside Config. -/
theorem startMovesToActive : Obligations.StartMovesToActive := by
  unfold Obligations.StartMovesToActive
  intro s hf
  refine ⟨exec_sysStart hf, fun hp => ?_⟩
  have hrefused : ∀ i, (mayIssue i s → s.phase = .config) → exec i s = .refused .permission :=
    fun i hi => exec_not_mayIssue hf (mt hi hp)
  exact ⟨hrefused _ And.right, fun e => hrefused _ And.right, fun u nm lbl dev => hrefused _ And.right,
    fun argv => hrefused _ And.right⟩

end Sys2Proof.Claims

/-! ## Exceptions (60_exceptions.md): the fatal state, and what an accepted interrupt saves -/

namespace Sys2Proof.Machine

/-! ### Commands in the fatal state (R262) -/

/-- The gate lets a command through in the fatal state exactly where R262 has it work there. -/
theorem survivesFatal_rightsRow (i : Instr) :
    survivesFatal (rightsRow i) = Claims.worksInFatal i := by
  cases i <;> rfl

/-- A command that does not work in the fatal state answers `Fatal(FATAL)`, whoever issues it. -/
theorem exec_fatal {i : Instr} {s : State} {c : FatalCode} (hf : s.fatal = some c)
    (hi : Claims.worksInFatal i = false) : exec i s = .next (s.answer (.fatal c)) := by
  obtain ⟨body, hexec⟩ := exec_eq_command i s
  rw [hexec]
  exact command_fatal hf ((survivesFatal_rightsRow i).trans hi)

/-- Where the gate lets a command through in the fatal state, its next state comes from its body. -/
theorem body_next {row : Rights} {s t : State} {body : State → Outcome}
    (hs : survivesFatal row = true) (h : command row s body = .next t) : body s = .next t := by
  rcases command_next h with ⟨_, _, hns, _⟩ | ⟨_, _, hbody⟩
  · exact absurd (hs.symm.trans hns) (by decide)
  · exact hbody

/-- Everything a command can do in the fatal state when a next state comes out: it answers on the
result port, or it is the power-down. -/
theorem exec_next_of_fatal {i : Instr} {s t : State} {c : FatalCode} (hf : s.fatal = some c)
    (h : exec i s = .next t) :
    (∃ r, t = s.answer r) ∨
    i = .devPowerDown ∧ ∃ reg n,
      drawEach (powerOutcome s.params .down []) s.draws s.reg = .ok (reg, n) ∧
      t = { s with reg := reg, draws := n, run := false, phase := .down, result := some .ok } := by
  cases hi : Claims.worksInFatal i with
  | false =>
    rw [exec_fatal hf hi] at h
    injection h with h
    exact .inl ⟨_, h.symm⟩
  | true =>
    cases i
    all_goals simp only [exec] at h
    case devPowerDown =>
      obtain ⟨reg, n, hdraw, hdone⟩ := forEachDevice_next (body_next rfl h)
      exact .inr ⟨rfl, reg, n, hdraw, done_next hdone⟩
    case snapSave =>
      have hbody := body_next rfl h
      injection hbody with hbody
      exact .inl ⟨_, hbody.symm⟩
    case xaInstr | xaData | memRd =>
      have hbody := body_next rfl h
      split at hbody
      · exact .inl ⟨_, giveNum_next hbody⟩
      · cases hbody
    case rdAc | rdPc | rdMq | rdSr | rdMa | rdMb | rdL | rdRun | rdLac | rdIf | rdDf | rdIb | rdSf |
        rdUf | rdUb | rdUi | intAcceptable | rdIntState | rdIntCount =>
      exact .inl ⟨_, giveNum_next (body_next rfl h)⟩
    -- the others do not work in the fatal state
    all_goals cases hi

/-! ### Steps in the fatal state (R48, R262) -/

/-- A device event is used up without a device step (log 11). -/
theorem step_deviceStep_of_fatal {s t : State} {c : FatalCode} {u : Nat} {rest : List Event}
    (hf : s.fatal = some c) (hin : s.inbox = .deviceStep u :: rest) (h : step s = .next t) :
    t = { s with inbox := rest } := by
  rw [step_deviceStep hin, deviceStep_fatal (by simp [hf])] at h
  injection h with h
  exact h.symm

/-- Everything a step can do in the fatal state when a next state comes out: it touches the two ports
and the issuing agent alone, or performs the power-down that stands next. -/
theorem step_next_of_fatal {s t : State} {c : FatalCode} (hf : s.fatal = some c)
    (h : step s = .next t) :
    (∃ result agent inbox, t = { s with result := result, agent := agent, inbox := inbox }) ∨
    ∃ a cmd rest reg n, s.inbox = .command a cmd :: rest ∧ decode cmd = .ok .devPowerDown ∧
      reg.map Claims.recordApart = s.reg.map Claims.recordApart ∧
      t = { s with reg := reg, draws := n, run := false, phase := .down, result := some .ok,
                   agent := a, inbox := rest } := by
  rcases step_next h with ⟨_, rfl⟩ | ⟨a, cmd, rest, i, hin, hd, hx⟩ | ⟨u, rest, hin, _⟩
  · exact .inl ⟨_, _, _, rfl⟩
  · rcases exec_next_of_fatal (s := { s with inbox := rest, agent := a }) hf hx with
      ⟨r, rfl⟩ | ⟨rfl, reg, n, hdraw, rfl⟩
    · exact .inl ⟨_, _, _, rfl⟩
    · exact .inr ⟨a, cmd, rest, reg, n, hin, hd,
        drawEach_map Claims.recordApart (fun _ _ => rfl) hdraw, rfl⟩
  · exact .inl ⟨_, _, _, step_deviceStep_of_fatal hf hin h⟩

/-! ### An accepted interrupt (R143, R266, R269) -/

theorem redirect_pdp8Jms0 {s : State} (h : s.params.vector = .pdp8Jms0) :
    s.redirect = { s with mem := Memory.write s.mem 0 s.pc, pc := 1 } := by
  simp only [State.redirect, h]

theorem redirect_core {s : State} (h : s.params.vector = .core) : s.redirect = s := by
  simp only [State.redirect, h]

/-- The redirect touches memory and the program counter alone. -/
theorem redirect_frame (s : State) :
    s.redirect = { s with mem := s.redirect.mem, pc := s.redirect.pc } := by
  cases h : s.params.vector with
  | pdp8Jms0 => rw [redirect_pdp8Jms0 h]
  | core => rw [redirect_core h]

/-- What the redirect does to them depends on the parameters and on nothing else of the state. -/
theorem redirect_congr {s u : State} (hparams : u.params = s.params) (hpc : u.pc = s.pc)
    (hmem : u.mem = s.mem) : u.redirect.pc = s.redirect.pc ∧ u.redirect.mem = s.redirect.mem := by
  cases h : s.params.vector with
  | pdp8Jms0 =>
    rw [redirect_pdp8Jms0 h, redirect_pdp8Jms0 (s := u) (hparams ▸ h), hpc, hmem]
    exact ⟨rfl, rfl⟩
  | core =>
    rw [redirect_core h, redirect_core (s := u) (hparams ▸ h)]
    exact ⟨hpc, hmem⟩

/-- With EMA on the entry packs the context and clears the fields before the redirect. -/
theorem takeInterrupt_on {s : State} (h : s.ema = .on) :
    s.takeInterrupt = State.redirect { s with
      sf := packSave s.uf s.ifr s.df, ifr := 0, df := 0, uf := 0, ib := 0, ub := 0,
      ist := .disabled } := by
  simp only [State.takeInterrupt, State.enterInterrupt, State.ifEma_on h, State.disableInterrupts]

/-- With EMA off the entry does nothing before the redirect (R159). -/
theorem takeInterrupt_off {s : State} (h : s.ema = .off) :
    s.takeInterrupt = State.redirect { s with ist := .disabled } := by
  simp only [State.takeInterrupt, State.enterInterrupt, State.ifEma_off h, State.disableInterrupts]

/-- The redirect sees program counter and memory as they were before the entry. -/
theorem takeInterrupt_eq_redirect (s : State) :
    s.takeInterrupt.pc = s.redirect.pc ∧ s.takeInterrupt.mem = s.redirect.mem := by
  cases h : s.ema with
  | off => rw [takeInterrupt_off h]; exact redirect_congr rfl rfl rfl
  | on => rw [takeInterrupt_on h]; exact redirect_congr rfl rfl rfl

end Sys2Proof.Machine

namespace Sys2Proof.Claims
open Sys2Proof.Machine

/-- Settles O49: a step in the fatal state touches the ports and the issuing agent alone, or is the
power-down, whose handlers change device states. -/
theorem fatalStateIsSticky : Obligations.FatalStateIsSticky := by
  unfold Obligations.FatalStateIsSticky
  intro s t c hf h
  have hdevice (u rest) (hin : s.inbox = .deviceStep u :: rest) : t = { s with inbox := rest } :=
    step_deviceStep_of_fatal hf hin h
  rcases step_next_of_fatal hf h with
    ⟨_, _, _, rfl⟩ | ⟨a, cmd, rest, reg, n, hin, hdown, hreg, rfl⟩
  · exact ⟨hf, rfl, rfl, fun _ => ⟨rfl, rfl, rfl, rfl⟩, hdevice, id, .inl rfl⟩
  · exact ⟨hf, rfl, hreg, fun hother => absurd hdown (hother a cmd rest hin), hdevice,
      fun _ => rfl, .inr rfl⟩

/-- Settles O48: the gate answers for every command that does not work in the fatal state, before it
looks at rights and operands. -/
theorem fatalStateAnswersFatal : Obligations.FatalStateAnswersFatal := by
  unfold Obligations.FatalStateAnswersFatal
  exact fun _ _ _ hf hi => exec_fatal hf hi

/-- Settles O29: EMA decides what the entry saves and clears, the vector mode what the redirect does
to program counter and memory. -/
theorem pollTakesAnAcceptableInterrupt : Obligations.PollTakesAnAcceptableInterrupt := by
  unfold Obligations.PollTakesAnAcceptableInterrupt
  rintro s hwf hf ⟨ha, hp⟩ hist hirq
  obtain ⟨hpc, hmem⟩ := takeInterrupt_eq_redirect s
  refine ⟨_, exec_poll_taken hf ha hp hist hirq, ?_, fun hon => ?_, fun hoff => ?_, fun hv => ?_,
    fun hv => ?_⟩
  · obtain ⟨_, _, _, _, _, _, _, _, e⟩ := takeInterrupt_frame s
    rw [e]
    rfl
  · rw [takeInterrupt_on hon, redirect_frame]
    exact ⟨packSave_toNat_add s.uf s.ifr s.df, rfl, rfl, rfl, rfl, rfl⟩
  · rw [takeInterrupt_off hoff, redirect_frame]
    exact ⟨rfl, rfl, rfl, rfl, rfl, rfl⟩
  · rw [redirect_pdp8Jms0 hv] at hpc hmem
    refine ⟨hpc, fun a => ?_⟩
    rw [State.answer_mem, hmem, Memory.read_write hwf]
    exact if_congr eq_comm rfl rfl
  · rw [redirect_core hv] at hpc hmem
    exact ⟨hpc, hmem⟩

end Sys2Proof.Claims

/-! ## Reset and hazards (70_reset_and_hazards.md): the state after power-up, the system reset, and an
enable that a disable follows -/

namespace Sys2Proof.Machine

/-- `SYS_RESET` is a run of the init handlers over the cleared state (R302). -/
theorem exec_sysReset {s : State} (hf : s.fatal = none) (ha : s.agent = .core ∨ s.agent = .host)
    (hp : s.phase = .active) :
    exec .sysReset s = forEachDevice .init (initOutcome s.params) s.clearForReset done := by
  simp only [exec, execSysReset, command_resetActive hf ha hp]

end Sys2Proof.Machine

namespace Sys2Proof.Claims
open Sys2Proof.Machine

/-- Settles O31: the first poll finds DeferredEnable, the second finds Disabled, and neither takes an
interrupt at any count. -/
theorem enableThenDisableAdmitsNoInterrupt : Obligations.EnableThenDisableAdmitsNoInterrupt := by
  unfold Obligations.EnableThenDisableAdmitsNoInterrupt
  rintro s j k hf ⟨ha, hp⟩ hist
  have henable : exec .intEnableDeferred s =
      .next { s with ist := .deferredEnable, result := some .ok } :=
    (enableDeferredMovesTheController s hf ha).1 (by simp [hist])
  have hpoll : exec .poll { s with ist := .deferredEnable, irq := j, result := some .ok } =
      .next { s with ist := .enabled, irq := j, result := some (.okValue .notTaken) } :=
    exec_poll_deferredEnable hf ha hp rfl
  have hdisable : exec .intDisable
        { s with ist := .enabled, irq := j, result := some (.okValue .notTaken) } =
      .next { s with ist := .disabled, irq := j, result := some .ok } :=
    exec_intDisable hf ha
  have hpoll' : exec .poll { s with ist := .disabled, irq := k, result := some .ok } =
      .next { s with ist := .disabled, irq := k, result := some (.okValue .notTaken) } :=
    exec_poll_notTaken hf ha hp (.inl nofun)
  exact ⟨_, _, _, _, henable, hpoll, rfl, hdisable, hpoll', rfl, rfl, rfl, rfl⟩

/-- Settles O43: clearing leaves registry and draw counter as they are, so the init handlers run over
it as they do over the state itself. -/
theorem systemResetClears : Obligations.SystemResetClears := by
  unfold Obligations.SystemResetClears
  refine fun s => ⟨fun hf ha hp hall => ?_, fun u hf ha hp hstuck => ?_, fun c hf => exec_fatal hf rfl⟩
  · rw [exec_sysReset hf ha hp]
    exact forEachDevice_completes (s := s.clearForReset) _ _ hall
  · rw [exec_sysReset hf ha hp]
    exact forEachDevice_stuck (s := s.clearForReset) _ _ hstuck

/-- Settles O50: each field is the one `State.reset` lists, and a word no memory lists reads 0. -/
theorem powerUpState : Obligations.PowerUpState := by
  unfold Obligations.PowerUpState
  exact ⟨rfl, rfl, rfl, rfl, rfl, rfl, rfl, rfl, ⟨rfl, rfl, rfl, rfl, rfl, rfl, rfl⟩, rfl, rfl, rfl,
    Memory.read_nil, rfl, rfl, rfl, rfl⟩

/-- Settles O56: memory and registry are empty, the registers and the counter 0, and `FATAL` is
none. -/
theorem invariantHoldsAtPowerUp : Obligations.InvariantHoldsAtPowerUp := by
  unfold Obligations.InvariantHoldsAtPowerUp
  exact ⟨rfl, rfl, Nat.two_pow_pos _, Nat.two_pow_pos _, fun _ => ⟨rfl, rfl, rfl, rfl, rfl, rfl, rfl⟩,
    irqInRange_zero _, List.nodup_nil, List.forall_mem_nil _, fun hne => absurd rfl hne⟩

end Sys2Proof.Claims
